-- ==== Sys2Proof/Word.lean ====
section
/-! DEFINITION. The value types of the block: bytes, pixel colour words, pixel indices, packed colours and
command words, with the widths of rule R10 (`00_scope.md`). -/

namespace Sys2Proof

/-- An 8-bit value: a colour channel operand (`CH_W`, R10) and a byte on the wire (R14). -/
abbrev Byte := BitVec 8

/-- A pixel colour word and the response register: `WORD_W = 32` bits (R10, R22, R33). -/
abbrev Word := BitVec 32

/-- A pixel index, and the pixel count `N`: `IDX_W = 16` bits, unsigned (R10). -/
abbrev Index := BitVec 16

/-- The 24-bit packed colour operand of SETPACKED (R73). -/
abbrev Packed := BitVec 24

/-- A command word: `CMD_W = 48` bits (R10, R71). -/
abbrev CmdWord := BitVec 48

end Sys2Proof
end

