-- ==== Sys2Proof/Config.lean ====
section
/-! DEFINITION. What an instance of the block fixes (rules R10, R11, R31) and the free values of the model.
A parameter the spec leaves OPEN and a value the spec leaves unspecified is an `opaque` constant without a body:
nothing in Lean can evaluate it, so a statement that is proved holds for every value of it. -/

namespace Sys2Proof

/-- The instance parameters of rule R10 that the model takes as an argument. `N` is `Index`-wide, which is its
range `0 <= N <= 2^IDX_W - 1` (D1). `TRAILER_LEN` is a number because R31 leaves its width to the implementation. -/
structure Params where
  /-- `N`, the pixel count, the length of `PIX`. -/
  n : Index
  /-- `TRAILER_LEN`, the zero bytes of the latch trailer; `>= 4` (D8). -/
  trailerLen : Nat
  /-- `SETTLE_MS`, the settle pause in milliseconds; `1 <= SETTLE_MS <= 65535` (D9). -/
  settleMs : BitVec 16
  /-- `CLOCK_RATE_HZ`, the transport clock rate; unconstrained (D10). -/
  clockRateHz : BitVec 32
deriving DecidableEq, Repr

/-- The pixel count as a number: the bound of every index and loop. -/
def Params.pixels (p : Params) : Nat := p.n.toNat

namespace Config

/-- `HEADER_LEN`, hardwired at 4 (R10, R80, U13). -/
def headerLen : Nat := 4

/-- `SPI_MODE`, the transport's clock polarity and phase: mode 0 (R10). -/
def spiMode : BitVec 2 := 0

/-- The least `TRAILER_LEN` an instance may have, and its default (R10, D8). -/
def trailerMin : Nat := 4

/-- OPEN (R10, D1): the pixel count of the instance that `State.reset` describes. DESIGN CHOICE, safe (log entry 2). -/
opaque pixelCount : Index

/-- OPEN (R10, D8): by how much `TRAILER_LEN` of that instance exceeds its least value.
DESIGN CHOICE, safe (log entry 2). -/
opaque trailerExtra : Nat

/-- OPEN (R10, D9): `SETTLE_MS - 1` of that instance, so that every value from 1 to 65535 is possible and no
other. DESIGN CHOICE, safe (log entry 2). -/
opaque settleLessOne : Fin 65535

/-- OPEN (R10, D10): `CLOCK_RATE_HZ` of that instance. DESIGN CHOICE, safe (log entry 2). -/
opaque clockRateHz : BitVec 32

/-- The instance whose reset state is `State.reset`: every parameter open within the bounds of R10. -/
def params : Params where
  n := pixelCount
  trailerLen := trailerMin + trailerExtra
  settleMs := BitVec.ofNat 16 (settleLessOne.val + 1)
  clockRateHz := clockRateHz

/-- FREE VALUE (R24, R140, U1): the byte sent at the `d`-th draw for a pixel word that was never written.
DESIGN CHOICE, safe (log entry 4). -/
opaque freeByte : Nat → Byte

/-- FREE VALUE (R44, R210, U12): what `RSP` holds after a reset in the middle of a run, at draw `d`.
DESIGN CHOICE, safe (log entry 6). -/
opaque freeResponse : Nat → Word

end Config
end Sys2Proof
end

