-- ==== Sys2Proof/Syntax.lean ====
section
/-! DEFINITION. The seven commands of the opcode map (rule R74, `30_encoding.md`), one constructor per row of
`spec/opcode_table.json`. Fields an operation ignores (R76) are not operands. CONSTRUCT is the reset event and
has no command word (R77). -/

namespace Sys2Proof

/-- A command with its operands, each as wide as its field of the command word (R71 to R73, R78). -/
inductive Instr where
  /-- INIT, `Initialize()` (R131). -/
  | init
  /-- COUNT, `PixelCount()` and `Length()` (R105). -/
  | count
  /-- COMPOSE r, g, b, `ComposeColor(r,g,b)` (R104). -/
  | compose (red green blue : Byte)
  /-- SETRGB idx, r, g, b, `SetColor(index, r, g, b)` (R102). -/
  | setrgb (idx : Index) (red green blue : Byte)
  /-- SETPACKED idx, c, `SetColor(index, packedValue)`; `c` is in wire order green, red, blue (R73, R103). -/
  | setpacked (idx : Index) (c : Packed)
  /-- RENDER, `Render()` (R132). -/
  | render
  /-- CLEAR, `Clear()` (R133). -/
  | clear
deriving DecidableEq, Repr

/-- The mnemonic of the constructor's row of the opcode map (R74). -/
def Instr.mnemonic : Instr → String
  | .init => "INIT"
  | .count => "COUNT"
  | .compose _ _ _ => "COMPOSE"
  | .setrgb _ _ _ _ => "SETRGB"
  | .setpacked _ _ => "SETPACKED"
  | .render => "RENDER"
  | .clear => "CLEAR"

end Sys2Proof
end

