-- ==== Sys2Proof/WellFormed.lean ====
section
/-! DEFINITION. Which instances and which commands are well formed. A command's operands carry their field's
width in their type, so every value a constructor can hold is one the encoding admits and the spec gives a
meaning (R76, R78, R181): there is no check left to make on `Instr`. The constraints of R10 on an instance's
parameters are checked here. The range checks on an assembly line's operands (R86) stand with the assembler. -/

namespace Sys2Proof

/-- A command is well formed for every operand value of its fields (R78: "an unsigned field with no sign
extension, no scaling and no shift"; R181 gives every irregular operand an effect). -/
def Instr.wellFormed : Instr → Bool
  | .init | .count | .compose _ _ _ | .setrgb _ _ _ _ | .setpacked _ _ | .render | .clear => true

/-- The constraints of R10: `TRAILER_LEN >= 4` and `SETTLE_MS >= 1`; the other bounds are the fields' widths. -/
def Params.wellFormed (p : Params) : Bool :=
  decide (Config.trailerMin ≤ p.trailerLen) && decide (p.settleMs ≠ 0)

end Sys2Proof
end

