-- ==== Sys2Proof/Decode.lean ====
section
/-! DEFINITION. The command word (rules R71 to R79, `30_encoding.md`): its fields, the opcode map, the decoder
on a word and on bytes, and, after it, the encoder. -/

namespace Sys2Proof

/-! ## Fields (R71, R78) -/

/-- `op = cw[47:40]`. -/
def opField (w : CmdWord) : Byte := w.extractLsb' 40 8

/-- `idx = cw[39:24]`. -/
def idxField (w : CmdWord) : Index := w.extractLsb' 24 16

/-- `red = cw[23:16]` of COMPOSE and SETRGB (R72). -/
def redField (w : CmdWord) : Byte := w.extractLsb' 16 8

/-- `green = cw[15:8]` of COMPOSE and SETRGB (R72). -/
def greenField (w : CmdWord) : Byte := w.extractLsb' 8 8

/-- `blue = cw[7:0]` of COMPOSE and SETRGB (R72). -/
def blueField (w : CmdWord) : Byte := w.extractLsb' 0 8

/-- `c = cw[23:0]` of SETPACKED (R73). -/
def packedField (w : CmdWord) : Packed := w.extractLsb' 0 24

/-! ## The opcode map (R74) -/

/-- One row of the opcode map: a word `cw` selects it when `cw & mask = match`. -/
structure OpcodeRow where
  mnemonic : String
  matchBits : CmdWord
  mask : CmdWord
deriving DecidableEq, Repr

/-- The seven rows of rule R74, in its order. -/
def opcodeTable : List OpcodeRow :=
  [ ⟨"INIT",      0x010000000000, 0xFF0000000000⟩,
    ⟨"COUNT",     0x020000000000, 0xFF0000000000⟩,
    ⟨"COMPOSE",   0x030000000000, 0xFF0000000000⟩,
    ⟨"SETRGB",    0x040000000000, 0xFF0000000000⟩,
    ⟨"SETPACKED", 0x050000000000, 0xFF0000000000⟩,
    ⟨"RENDER",    0x060000000000, 0xFF0000000000⟩,
    ⟨"CLEAR",     0x070000000000, 0xFF0000000000⟩ ]

/-- A word selects a row when `cw & mask = match` (R74). -/
def OpcodeRow.selectedBy (row : OpcodeRow) (w : CmdWord) : Bool := w &&& row.mask == row.matchBits

/-! ## The decoder -/

/-- Why bits are no command. -/
inductive DecodeError where
  /-- The operation code is reserved: `0x00` or `0x08` to `0xFF` (R75). -/
  | reservedOpcode (op : Byte)
  /-- Fewer than the six bytes of a command word are there (R71, R79: every command has 48 bits). -/
  | truncated (have_ : Nat)
deriving DecidableEq, Repr

/-- Decode a command word. The `op` byte alone selects the operation; a field the operation does not use is
ignored whatever it holds (R74 to R78). -/
def decode (w : CmdWord) : Except DecodeError Instr :=
  match (opField w).toNat with
  | 1 => .ok .init
  | 2 => .ok .count
  | 3 => .ok (.compose (redField w) (greenField w) (blueField w))
  | 4 => .ok (.setrgb (idxField w) (redField w) (greenField w) (blueField w))
  | 5 => .ok (.setpacked (idxField w) (packedField w))
  | 6 => .ok .render
  | 7 => .ok .clear
  | _ => .error (.reservedOpcode (opField w))

/-- The word that six bytes spell, most significant first (R71). -/
def wordOfBytes (b5 b4 b3 b2 b1 b0 : Byte) : CmdWord := b5 ++ b4 ++ b3 ++ b2 ++ b1 ++ b0

/-- The six bytes of a word, most significant first (R71). -/
def bytesOfWord (w : CmdWord) : List Byte :=
  [w.extractLsb' 40 8, w.extractLsb' 32 8, w.extractLsb' 24 8, w.extractLsb' 16 8, w.extractLsb' 8 8,
    w.extractLsb' 0 8]

/-- Decode the command at the front of a byte list, and answer the bytes after it. Total on any bytes. -/
def decodeBytes : List Byte → Except DecodeError (Instr × List Byte)
  | b5 :: b4 :: b3 :: b2 :: b1 :: b0 :: rest =>
    match decode (wordOfBytes b5 b4 b3 b2 b1 b0) with
    | .ok i => .ok (i, rest)
    | .error e => .error e
  | short => .error (.truncated short.length)

/-- The command word of a table row's bits: bit 0 is the word's least significant bit, and a bit at or above
`nbits` is 0. DEDUCED, unsafe (log entry 21). -/
def tableWord (nbits w : Nat) : CmdWord := BitVec.ofNat 48 (w % 2 ^ nbits)

/-- The instruction the decoder reads from a table row's bits laid out as the six bytes of R71. -/
def decodeTableWord (nbits w : Nat) : Option Instr :=
  match decodeBytes (bytesOfWord (tableWord nbits w)) with
  | .ok (i, _) => some i
  | .error _ => none

/-! ## The encoder -/

/-- A command word from its three fields (R71). -/
def assembleWord (op : Byte) (idx : Index) (data : Packed) : CmdWord := op ++ idx ++ data

/-- The `data` field of COMPOSE and SETRGB: red first (R72). -/
def channelData (red green blue : Byte) : Packed := red ++ green ++ blue

/-- The word of a command; an ignored field holds zeros (R76: "An assembler writes zeros there"). -/
def encode : Instr → CmdWord
  | .init => assembleWord 0x01 0 0
  | .count => assembleWord 0x02 0 0
  | .compose red green blue => assembleWord 0x03 0 (channelData red green blue)
  | .setrgb idx red green blue => assembleWord 0x04 idx (channelData red green blue)
  | .setpacked idx c => assembleWord 0x05 idx c
  | .render => assembleWord 0x06 0 0
  | .clear => assembleWord 0x07 0 0

/-- The six bytes of a command, most significant first (R71). -/
def encodeBytes (i : Instr) : List Byte := bytesOfWord (encode i)

end Sys2Proof
end

