-- ==== Sys2Proof/Machine/State.lean ====
section
/-! DEFINITION. The state of the block (rule R20, `10_state.md`): `PIX`, `CONFIGURED`, `SEQ` with `WAIT`, `OUT`
and `RSP`; the responses returned to the host (R14, R229); the pulse outputs of the current clock (R40 to R42);
the levels on its inputs and the command words the host still offers (R39 to R42, R229); the instance's
parameters (R10); and the model's own counter of free values. Plain data throughout. -/

namespace Sys2Proof.Machine

/-- `BUS_ROLE` (R10, R31, R41: `cfg_role = 1` is the controller). The block only ever names `controller`. -/
inductive BusRole where
  | controller
  | peripheral
deriving DecidableEq, Repr

/-- `BIT_ORDER` (R10, R31, R41: `cfg_msb_first = 1`). The block only ever names `msbFirst`. -/
inductive BitOrder where
  | msbFirst
  | lsbFirst
deriving DecidableEq, Repr

/-- One act of the block on the outside world (R14): a call of one of its two services. -/
inductive Event where
  /-- `Cfg(role, mode, order, rate)`: the transport's `Configure` (R187). -/
  | cfg (role : BusRole) (mode : BitVec 2) (order : BitOrder) (rate : BitVec 32)
  /-- `Tx(b)`: the transport's `TransferByte(b)` (R188). -/
  | tx (b : Byte)
  /-- `Delay(n)`: the delay service's `DelayMilliseconds(n)` (R191). -/
  | delay (ms : BitVec 16)
deriving DecidableEq, Repr

/-- The byte position `j` inside a pixel triplet: 0 is green, 1 is red, 2 is blue (R26, R81, R165). -/
inductive Channel where
  | green
  | red
  | blue
deriving DecidableEq, Repr

/-- `SEQ`, where in a multi-step operation the block is (R26). -/
inductive Seq where
  /-- No operation in progress; a command can be accepted. -/
  | idle
  /-- INIT is about to configure the transport. -/
  | cfg
  /-- CLEAR or INIT is about to write the zero colour to `PIX[i]`. -/
  | clr (i : Nat)
  /-- About to send header byte `k`, or waiting for it to complete. -/
  | hdr (k : Nat)
  /-- About to send byte `j` of pixel `i`, or waiting for it to complete. -/
  | pay (i : Nat) (j : Channel)
  /-- About to send trailer byte `k`, or waiting for it to complete. -/
  | trl (k : Nat)
  /-- About to start, or waiting out, the settle delay. -/
  | settle
deriving DecidableEq, Repr

/-- One written entry of `PIX`: its index and its word. The addressable unit is one whole pixel word (R35, R53). -/
abbrev PixCell := Nat × Word

/-- `PIX` as the list of its written entries. An index that is not listed holds `UNDEF` (R24).
DESIGN CHOICE, safe (log entry 1). -/
abbrev Memory := List PixCell

/-- The canonical form: indices strictly rising. `UNDEF` cannot be listed, because a listed entry is a word. -/
abbrev Memory.wf (m : Memory) : Prop := m.Pairwise fun a b => a.1 < b.1

/-- The block raises no exception and has no fault of any kind (R180, R196), so there is no constructor.
DEDUCED, safe (log entry 17). -/
inductive Fault where
deriving DecidableEq, Repr

/-- Why the model gives a command no meaning. -/
inductive Refusal where
  /-- Raised by `exec` for an instruction that has no meaning yet (none is left). Safe: nothing is claimed. -/
  | notModelled (mnemonic : String)
  /-- Raised by `fetch` for a reserved operation code (R75: "a model should nevertheless refuse such a word"; U2).
  Safe: the hardware goes on with no effect, the model claims nothing (log entry 9). -/
  | reservedOpcode (op : Byte)
  /-- Raised by RENDER and CLEAR accepted with `CONFIGURED = 0` (R136: "no meaning: it refuses it"; U4: the
  hardware's behaviour is undefined). Safe: nothing is claimed of the run (log entry 10). -/
  | notConfigured
deriving DecidableEq, Repr

/-- Everything the spec gives the machine. INVENTORY.md lists each field with its rule and its reset value. -/
structure State where
  /-- The instance parameters (R10, R31). No step changes them (R11). DESIGN CHOICE, safe (log entry 2). -/
  params : Params
  /-- `PIX` (R21 to R25). -/
  pix : Memory
  /-- `CONFIGURED` (R29). -/
  configured : Bool
  /-- `SEQ` (R26, R27). -/
  seq : Seq
  /-- `WAIT`: a call handed to a service has not completed (R160). -/
  wait : Bool
  /-- `OUT`: every event issued, oldest first (R36). -/
  out : List Event
  /-- `RSP`, the response register (R33); the output `rsp_data` (R40). -/
  rsp : Word
  /-- The responses returned to the host, oldest first (R14, R229). DEDUCED, safe (log entry 12). -/
  responses : List Word
  /-- The event whose pulse is on the service ports in this clock: `cfg_valid`, `tx_valid` with `tx_data`, or
  `dly_start` (R41, R42); `none` when all three are 0. DESIGN CHOICE, safe (log entry 13). -/
  strobe : Option Event
  /-- The output pulse `rsp_valid` (R40). -/
  rspValid : Bool
  /-- The input level `rst` (R39). The environment's; no step changes it. DESIGN CHOICE, unsafe (log entry 7). -/
  rst : Bool
  /-- The input level `tx_done` (R38, R41). The environment's; no step changes it.
  DESIGN CHOICE, unsafe (log entry 7). -/
  txDone : Bool
  /-- The input level `dly_done` (R42). The environment's; no step changes it. DESIGN CHOICE, unsafe (log entry 7). -/
  dlyDone : Bool
  /-- The command words the host still offers, in order: `cmd_valid` is 1 when there is one, and the first is on
  `cmd_word` (R40, R229). DESIGN CHOICE, unsafe (log entry 8). -/
  cmds : List CmdWord
  /-- The model's own: how many free values have been drawn. DESIGN CHOICE, safe (log entry 4). -/
  draws : Nat
deriving DecidableEq, Repr

/-- CONSTRUCT (R101): the state right after the reset that begins a run of the instance `p` (R44, R210).
`rsp`, `txDone`, `dlyDone` and `draws` have no value in the spec: DESIGN CHOICE, unsafe
(log entries 4, 5 and 7). -/
def State.construct (p : Params) : State where
  params := p
  pix := []
  configured := false
  seq := .idle
  wait := false
  out := []
  rsp := 0
  responses := []
  strobe := none
  rspValid := false
  rst := false
  txDone := true
  dlyDone := true
  cmds := []
  draws := 0

/-- The machine right after reset, for an instance whose parameters are open within the bounds of R10. -/
def State.reset : State := State.construct Config.params

end Sys2Proof.Machine
end

