-- ==== Sys2Proof/Machine/Operands.lean ====
section
/-! DEFINITION. The arithmetic of colours (rules R15, R22, R106, `00_scope.md` and `40_pixel_buffer_ops.md`):
marker forcing, field packing, the bytes of a stored word, and the word each operand form stores. -/

namespace Sys2Proof.Machine

/-- `MARK(v) = v | 0x80` (R15, R106). -/
def mark (v : Byte) : Byte := v ||| 0x80

/-- `PACK(g8, r8, b8) = zext_32(g8 ++ r8 ++ b8)` (R15): top byte zero, then green, red, blue (R22). -/
def pack (green red blue : Byte) : Word := (0 : Byte) ++ green ++ red ++ blue

/-- `WIREWORD(r, g, b) = PACK(MARK(g), MARK(r), MARK(b))` (R15): operands come red first, the word holds green
first (R52). -/
def wireWord (red green blue : Byte) : Word := pack (mark green) (mark red) (mark blue)

/-- What SETPACKED stores for its operand `c`: `PACK(c[23:16] | 0x80, c[15:8] | 0x80, c[7:0] | 0x80)`, the
fields not swapped (R73, R103, conflict C1). -/
def packedWord (c : Packed) : Word :=
  pack (mark (c.extractLsb' 16 8)) (mark (c.extractLsb' 8 8)) (mark (c.extractLsb' 0 8))

/-- The zero colour, `0x00808080`: `SETRGB i, 0, 0, 0` (R133). -/
def zeroColour : Word := wireWord 0 0 0

/-- Byte `j` of a stored word in sending order: `w[23:16]`, `w[15:8]`, `w[7:0]` (R50, R81, R165). -/
def Channel.byteOf (w : Word) : Channel → Byte
  | .green => w.extractLsb' 16 8
  | .red => w.extractLsb' 8 8
  | .blue => w.extractLsb' 0 8

/-- `BYTES(w) = [w[23:16], w[15:8], w[7:0]]` (R15). -/
def bytesOf (w : Word) : List Byte := [Channel.green.byteOf w, Channel.red.byteOf w, Channel.blue.byteOf w]

/-- `ZEROS(k)`, the list of `k` bytes `0x00` (R15). -/
def zeros (k : Nat) : List Byte := List.replicate k 0

/-- The property of a written word: the marker bits are 1 and the top byte is 0,
`w & 0xFF808080 = 0x00808080` (R22, R23). -/
def marked (w : Word) : Bool := w &&& 0xFF808080 == 0x00808080

/-- The answer of COUNT: `zext_32(N)` (R105). -/
def countWord (p : Params) : Word := p.n.setWidth 32

end Sys2Proof.Machine
end

