-- ==== Sys2Proof/Machine/Ops.lean ====
section
/-! DEFINITION. The operations over `PIX`, `OUT`, `RSP`, `SEQ` and the ports that every meaning is built from,
and the reset event. The block takes no exception and has no return from one (R180, R196, R197: no state is saved
on any event, no mode changes, no handler address exists), so there is no such operation here. -/

namespace Sys2Proof.Machine

/-! ## The pixel buffer -/

/-- `PIX[i]`: the written word, or `none` for the token `UNDEF` (R24). -/
def Memory.read : Memory → Nat → Option Word
  | [], _ => none
  | (k, w) :: rest, i => if k = i then some w else Memory.read rest i

/-- `PIX[i] <- w`: one whole word is replaced (R56). -/
def Memory.write : Memory → Nat → Word → Memory
  | [], i, w => [(i, w)]
  | (k, v) :: rest, i, w =>
    if i < k then (i, w) :: (k, v) :: rest
    else if i = k then (i, w) :: rest
    else (k, v) :: Memory.write rest i w

/-- The write path of SETRGB, SETPACKED, CLEAR and INIT: a word at an index below `N` is stored, a write at any
other index does nothing (R54, R110). -/
def State.storePixel (s : State) (i : Nat) (w : Word) : State :=
  if i < s.params.pixels then { s with pix := s.pix.write i w } else s

/-! ## Events, responses and flags -/

/-- Issue an event: it enters `OUT` when the call is handed to the service (R36), and its pulse is on the port in
this clock (R41, R42). -/
def State.emit (s : State) (e : Event) : State := { s with out := s.out ++ [e], strobe := some e }

/-- The issue half of a handshake: the event goes out and `WAIT <- 1`, `SEQ` unchanged (R160, R169, R170). -/
def State.handOver (s : State) (e : Event) : State := { s.emit e with wait := true }

/-- `SEQ <- q`. -/
def State.goto (s : State) (q : Seq) : State := { s with seq := q }

/-- The `Cfg` event of INIT: controller, mode 0, most-significant bit first, `CLOCK_RATE_HZ` (R131, R187). -/
def cfgEvent (p : Params) : Event := .cfg .controller Config.spiMode .msbFirst p.clockRateHz

/-- The `Delay` event that ends every render cycle (R132, R191). -/
def delayEvent (p : Params) : Event := .delay p.settleMs

/-- Return `v` to the host: `RSP <- v` with one pulse of `rsp_valid` (R33, R40, R104, R105). -/
def State.respond (s : State) (v : Word) : State :=
  { s with rsp := v, responses := s.responses ++ [v], rspValid := true }

/-- The pulses of the last clock end: each lasts one clock (R40 to R42). -/
def State.endPulses (s : State) : State := { s with strobe := none, rspValid := false }

/-! ## Bytes of pixels -/

/-- Byte `j` of pixel `i` and the count of free values drawn, from the count `d` before: the stored byte, or a
fresh free value if the word was never written (R140, R165; DESIGN CHOICE, safe: log entry 4). -/
def Memory.byteAt (m : Memory) (i : Nat) (j : Channel) (d : Nat) : Byte × Nat :=
  match m.read i with
  | some w => (j.byteOf w, d)
  | none => (Config.freeByte d, d + 1)

/-- Hand byte `j` of pixel `i` to the transport (R165). -/
def State.sendPixelByte (s : State) (i : Nat) (j : Channel) : State :=
  { s.handOver (.tx (s.pix.byteAt i j s.draws).1) with draws := (s.pix.byteAt i j s.draws).2 }

/-! ## Reset -/

/-- The effect of `rst` in any state (R101, R210 to R212): every pixel `UNDEF`, `CONFIGURED = 0`, `SEQ = IDLE`,
`WAIT = 0`, the pulse outputs 0, `RSP` unspecified (a free value), the parameters kept. The events and responses
already recorded stay; the inputs and the words the host offers are the environment's.
DESIGN CHOICE and DEDUCED, safe (log entries 6, 8 and 14). -/
def State.resetEvent (s : State) : State :=
  { s with
    pix := [], configured := false, seq := .idle, wait := false, strobe := none, rspValid := false,
    rsp := Config.freeResponse s.draws, draws := s.draws + 1 }

end Sys2Proof.Machine
end

