-- ==== Sys2Proof/Machine/Flags.lean ====
section
/-! DEFINITION. The two flags of the block and the preconditions that read them: `BUSY`, derived from `SEQ`
(R28), and `CONFIGURED` (R29). There are no arithmetic flags (R30). -/

namespace Sys2Proof.Machine

/-- `BUSY = 0` when `SEQ = IDLE`, else 1 (R28). -/
def State.busy (s : State) : Bool := decide (s.seq ≠ .idle)

/-- `cmd_ready = not BUSY` (R40). -/
def State.cmdReady (s : State) : Bool := !s.busy

/-- `CONFIGURED <- 1`, with the `Cfg` event that it records (R29, R131, R162). -/
def State.configure (s : State) : State := { s.emit (cfgEvent s.params) with configured := true }

/-- The precondition `BUSY = 0` of every command (R100). While `BUSY = 1` no command is accepted: the block does
nothing with the word, which stays on the port (R40, R171). DEDUCED, safe (log entry 11). -/
def State.whenIdle (s : State) (run : Host.Outcome State Fault Refusal) : Host.Outcome State Fault Refusal :=
  if s.busy then .next s else run

/-- The precondition `CONFIGURED = 1` of RENDER and CLEAR: without it the run is refused (R136).
DEDUCED, safe (log entry 10). -/
def State.whenConfigured (s : State) (run : Host.Outcome State Fault Refusal) :
    Host.Outcome State Fault Refusal :=
  if s.configured then run else .refused .notConfigured

end Sys2Proof.Machine
end

