-- ==== Sys2Proof/Machine/Sequencer.lean ====
section
/-! DEFINITION. The frame sequencer (rules R160 to R170, `42_frame_sequencer.md`): where each step leads, what
it does to the outside world or to `PIX`, and one clock of the running sequencer. -/

namespace Sys2Proof.Machine

/-- Where a Clear cycle begins: `CLR(0)`, or `HDR(0)` when `N = 0` (R161, R162). -/
def Seq.clearStart (p : Params) : Seq := if 0 < p.pixels then .clr 0 else .hdr 0

/-- The position a step names as the next one (R162 to R167). -/
def Seq.after (p : Params) : Seq → Seq
  | .idle => .idle
  | .cfg => Seq.clearStart p
  | .clr i => if i + 1 < p.pixels then .clr (i + 1) else .hdr 0
  | .hdr k => if k + 1 < Config.headerLen then .hdr (k + 1) else if 0 < p.pixels then .pay 0 .green else .trl 0
  | .pay i .green => .pay i .red
  | .pay i .red => .pay i .blue
  | .pay i .blue => if i + 1 < p.pixels then .pay (i + 1) .green else .trl 0
  | .trl k => if k + 1 < p.trailerLen then .trl (k + 1) else .settle
  | .settle => .idle

/-- The positions whose step is a call handed to a service, with two halves (R160). -/
def Seq.isHandshake : Seq → Bool
  | .idle | .cfg | .clr _ => false
  | .hdr _ | .pay _ _ | .trl _ | .settle => true

/-- The step's action with `WAIT = 0`: `CFG` and `CLR` complete at once and move on, the others hand over a call
and wait (R160, R162 to R167). -/
def State.issue (s : State) : State :=
  match s.seq with
  | .idle => s
  | .cfg => s.configure.goto (Seq.after s.params .cfg)
  | .clr i => (s.storePixel i zeroColour).goto (Seq.after s.params (.clr i))
  | .hdr _ => s.handOver (.tx 0)
  | .pay i j => s.sendPixelByte i j
  | .trl _ => s.handOver (.tx 0)
  | .settle => s.handOver (delayEvent s.params)

/-- The level that ends the outstanding call: `tx_done` for a byte, `dly_done` for the delay (R169, R170). -/
def State.serviceDone (s : State) : Bool :=
  match s.seq with
  | .idle | .cfg | .clr _ => false
  | .hdr _ | .pay _ _ | .trl _ => s.txDone
  | .settle => s.dlyDone

/-- The completion half with `WAIT = 1`: when the service signals done, `WAIT <- 0` and `SEQ` moves on; until then
no step is enabled (R160, R169, R170, R182). -/
def State.complete (s : State) : State :=
  if s.serviceDone then { s with wait := false, seq := Seq.after s.params s.seq } else s

/-- One clock of the sequencer. DESIGN CHOICE, unsafe (log entry 15). -/
def State.tick (s : State) : State :=
  if s.endPulses.wait then s.endPulses.complete else s.endPulses.issue

end Sys2Proof.Machine
end

