-- ==== Sys2Proof/Machine/Driver.lean ====
section
/-! DEFINITION. The protocol driver operations INIT, RENDER and CLEAR as the command port sees them (rules R131
to R133 and R136, `41_driver_ops.md`; R161, `42_frame_sequencer.md`): acceptance puts the sequencer at the
operation's entry, and the clocks that follow run it to the right end of the line (R172). The whole effect of
each as one transition stands in `BigStep.lean`. DESIGN CHOICE, safe (log entry 3). -/

namespace Sys2Proof.Machine

/-- INIT (R131, R161): enters at `CFG`. A second INIT does the same again (R137). -/
def execInit (s : State) : Host.Outcome State Fault Refusal :=
  s.whenIdle (.next (s.goto .cfg))

/-- RENDER (R132, R136, R161): enters at `HDR(0)`. -/
def execRender (s : State) : Host.Outcome State Fault Refusal :=
  s.whenIdle (s.whenConfigured (.next (s.goto (.hdr 0))))

/-- CLEAR (R133, R136, R161): enters at `CLR(0)`, or at `HDR(0)` when `N = 0`. -/
def execClear (s : State) : Host.Outcome State Fault Refusal :=
  s.whenIdle (s.whenConfigured (.next (s.goto (Seq.clearStart s.params))))

end Sys2Proof.Machine
end

