-- ==== Sys2Proof/Machine/PixelBuffer.lean ====
section
/-! DEFINITION. The pixel buffer operations SETRGB, SETPACKED, COMPOSE and COUNT (rules R102 to R105,
`40_pixel_buffer_ops.md`). Each is accepted when `BUSY = 0`, completes in the same step, leaves `SEQ = IDLE` and
needs no `CONFIGURED` (R100, R136). -/

namespace Sys2Proof.Machine

/-- COUNT (R105): `RSP <- zext_32(N)`, returned to the host. -/
def execCount (s : State) : Host.Outcome State Fault Refusal :=
  s.whenIdle (.next (s.respond (countWord s.params)))

/-- COMPOSE (R104): the wire word of the three channels goes to `RSP` and to the host; nothing else changes. -/
def execCompose (red green blue : Byte) (s : State) : Host.Outcome State Fault Refusal :=
  s.whenIdle (.next (s.respond (wireWord red green blue)))

/-- SETRGB (R102): the wire word of the three channels is stored at `idx`, or nothing happens when
`idx >= N`. -/
def execSetrgb (idx : Index) (red green blue : Byte) (s : State) : Host.Outcome State Fault Refusal :=
  s.whenIdle (.next (s.storePixel idx.toNat (wireWord red green blue)))

/-- SETPACKED (R103): the packed colour with its marker bits forced is stored at `idx`, or nothing happens when
`idx >= N`. -/
def execSetpacked (idx : Index) (c : Packed) (s : State) : Host.Outcome State Fault Refusal :=
  s.whenIdle (.next (s.storePixel idx.toNat (packedWord c)))

end Sys2Proof.Machine
end

