-- ==== Sys2Proof/Machine/Dispatch.lean ====
section
/-! DEFINITION. One arm per command: the meaning that executes it. -/

namespace Sys2Proof.Machine

def exec (i : Instr) (s : State) : Host.Outcome State Fault Refusal :=
  match i with
  | .init => Sys2Proof.Machine.execInit s
  | .count => Sys2Proof.Machine.execCount s
  | .compose red green blue => Sys2Proof.Machine.execCompose red green blue s
  | .setrgb idx red green blue => Sys2Proof.Machine.execSetrgb idx red green blue s
  | .setpacked idx c => Sys2Proof.Machine.execSetpacked idx c s
  | .render => Sys2Proof.Machine.execRender s
  | .clear => Sys2Proof.Machine.execClear s

end Sys2Proof.Machine
end

