-- ==== Sys2Proof/Machine/Port.lean ====
section
/-! DEFINITION. The interface signals (rules R39 to R43, `10_state.md`): the command port's fetch and acceptance,
and the levels the block drives. -/

namespace Sys2Proof.Machine

/-- `cmd_valid` and `cmd_word`: the word the host offers, if any (R40). -/
def State.offered (s : State) : Option CmdWord := s.cmds.head?

/-- The command on the port: none offered, a reserved code refused by name (R75), or an instruction. -/
def State.fetch (s : State) : Option (Except Refusal Instr) :=
  match s.offered with
  | none => none
  | some w =>
    match decode w with
    | .ok i => some (.ok i)
    | .error _ => some (.error (.reservedOpcode (opField w)))

/-- Acceptance takes the offered word off the port; each word is consumed once (R40, R66). -/
def State.accept (s : State) : State := { s.endPulses with cmds := s.cmds.tail }

/-- The signals the block drives in a clock (R40 to R42). `txData` has a value only in the clock of its pulse:
the spec gives the signal no other. -/
structure Outputs where
  cmdReady : Bool
  busy : Bool
  rspValid : Bool
  rspData : Word
  cfgValid : Bool
  cfgRole : Bool
  cfgMode : BitVec 2
  cfgMsbFirst : Bool
  cfgRate : BitVec 32
  txValid : Bool
  txData : Option Byte
  dlyStart : Bool
  dlyMs : BitVec 16
deriving DecidableEq, Repr

/-- The output signals of a state (R40 to R42). -/
def State.outputs (s : State) : Outputs where
  cmdReady := s.cmdReady
  busy := s.busy
  rspValid := s.rspValid
  rspData := s.rsp
  cfgValid := match s.strobe with
    | some (.cfg _ _ _ _) => true
    | _ => false
  cfgRole := true
  cfgMode := Config.spiMode
  cfgMsbFirst := true
  cfgRate := s.params.clockRateHz
  txValid := match s.strobe with
    | some (.tx _) => true
    | _ => false
  txData := match s.strobe with
    | some (.tx b) => some b
    | _ => none
  dlyStart := match s.strobe with
    | some (.delay _) => true
    | _ => false
  dlyMs := s.params.settleMs

end Sys2Proof.Machine
end

