-- ==== Sys2Proof/Machine/Step.lean ====
section
/-! DEFINITION. One clock of the block, and where its next command is offered. -/

namespace Sys2Proof.Machine

/-- One clock edge. Reset wins over everything (R185). While the sequencer runs, it takes one step or waits, and
no command is accepted (R171). When it is idle, the offered command is accepted and executed in this step (R40,
R161); with none offered, only the pulses end. DESIGN CHOICE, safe (log entry 3). -/
def step (s : State) : Host.Outcome State Fault Refusal :=
  if s.rst then .next s.resetEvent
  else if s.busy then .next s.tick
  else
    match s.fetch with
    | none => .next s.endPulses
    | some (.error r) => .refused r
    | some (.ok i) => exec i s.accept

/-- `s` with the table row's word offered on the command port of an idle block out of reset, ahead of the words
the host already offers, so that the very next step accepts it. DESIGN CHOICE, unsafe (log entry 8). -/
def State.withFetchWord (s : State) (nbits w : Nat) : State :=
  { s with rst := false, seq := .idle, wait := false, cmds := tableWord nbits w :: s.cmds }

end Sys2Proof.Machine
end

