-- ==== Sys2Proof/Machine/Wire.lean ====
section
/-! DEFINITION. The wire frame (rules R80 to R84, `30_encoding.md`; R130, `41_driver_ops.md`): the byte list of
one render cycle, how a frame is cut, and the bit stream of a byte list. -/

namespace Sys2Proof.Machine

/-- `EMIT(L)`: one `Tx` event for each byte (R130). -/
def emitBytes (l : List Byte) : List Event := l.map .tx

/-- `FRAME(P)` (R130): header, the three bytes of every pixel in index order, trailer. -/
def frame (p : Params) (words : List Word) : List Byte :=
  zeros Config.headerLen ++ words.flatMap bytesOf ++ zeros p.trailerLen

/-- The length of a frame: `HEADER_LEN + 3 * N + TRAILER_LEN` bytes (R83). -/
def frameLength (p : Params) : Nat := Config.headerLen + 3 * p.pixels + p.trailerLen

/-- The marker bit of a byte on the wire: its most significant bit (R51, R82). -/
def markerBit (b : Byte) : Bool := b.msb

/-- A byte list cut as R82 cuts a frame, without knowing `N`: the four header bytes, the run of bytes with bit 7
set, and the rest. -/
def cutFrame (f : List Byte) : List Byte × List Byte × List Byte :=
  (f.take Config.headerLen, (f.drop Config.headerLen).takeWhile markerBit,
    (f.drop Config.headerLen).dropWhile markerBit)

/-- `N` read from a frame: the number of bytes with bit 7 set, over three (R82). -/
def pixelCountOfFrame (f : List Byte) : Nat := f.countP markerBit / 3

/-- The bytes handed to the transport, oldest first. Their order in `OUT` is their order on the wire (R63). -/
def wireBytes (out : List Event) : List Byte :=
  out.filterMap fun
    | .tx b => some b
    | _ => none

/-- The bits of one byte in time order: `b[7], b[6], ..., b[0]` (R51, R84). -/
def byteBits (b : Byte) : List Bool :=
  [b.getLsbD 7, b.getLsbD 6, b.getLsbD 5, b.getLsbD 4, b.getLsbD 3, b.getLsbD 2, b.getLsbD 1, b.getLsbD 0]

/-- The bit sequence the data line carries for a byte list: eight bits a byte, nothing added (R84). -/
def bitStream (l : List Byte) : List Bool := l.flatMap byteBits

end Sys2Proof.Machine
end

