-- ==== Sys2Proof/Machine/BigStep.lean ====
section
/-! DEFINITION. INIT, RENDER and CLEAR each as one atomic transition (the pseudocode of rules R131 to R133,
`41_driver_ops.md`), and how many sequencer steps each takes (R172). `step` runs them clock by clock; R173 says
that the two levels agree. DESIGN CHOICE, safe (log entry 3). -/

namespace Sys2Proof.Machine

/-- The three bytes sent for pixel `i`, and the count of free values drawn, from the count `d` before (R81,
R132, R140). -/
def Memory.triplet (m : Memory) (i d : Nat) : List Byte × Nat :=
  let g := m.byteAt i .green d
  let r := m.byteAt i .red g.2
  let b := m.byteAt i .blue r.2
  ([g.1, r.1, b.1], b.2)

/-- The payload bytes of `count` pixels from index `i` on, in ascending order (R132 step 2). -/
def Memory.payload (m : Memory) : (count i d : Nat) → List Byte × Nat
  | 0, _, d => ([], d)
  | count + 1, i, d =>
    let here := m.triplet i d
    let rest := m.payload count (i + 1) here.2
    (here.1 ++ rest.1, rest.2)

/-- RENDER as one transition (R132): `OUT <- OUT ++ EMIT(FRAME(PIX)) ++ [Delay(SETTLE_MS)]`. -/
def State.bigRender (s : State) : State :=
  let body := s.pix.payload s.params.pixels 0 s.draws
  { s with
    out := s.out ++ emitBytes (zeros Config.headerLen ++ body.1 ++ zeros s.params.trailerLen)
      ++ [delayEvent s.params],
    draws := body.2 }

/-- The write loop of CLEAR (R133): the zero colour into `count` pixels from index `i` on. -/
def State.clearFrom (s : State) : (count i : Nat) → State
  | 0, _ => s
  | count + 1, i => (s.storePixel i zeroColour).clearFrom count (i + 1)

/-- CLEAR as one transition (R133): every pixel to the zero colour, then exactly RENDER. -/
def State.bigClear (s : State) : State := (s.clearFrom s.params.pixels 0).bigRender

/-- INIT as one transition (R131): the `Cfg` event and `CONFIGURED <- 1`, then exactly CLEAR. -/
def State.bigInit (s : State) : State :=
  { s with out := s.out ++ [cfgEvent s.params], configured := true }.bigClear

/-- The whole effect of a driver operation as one transition (R131 to R133). The other commands complete in the
step that accepts them. -/
def State.bigStep (s : State) : Instr → State
  | .init => s.bigInit
  | .render => s.bigRender
  | .clear => s.bigClear
  | .count | .compose _ _ _ | .setrgb _ _ _ _ | .setpacked _ _ => s

/-! ## Step counts (R172) -/

/-- How many bytes of a pixel are left to send at position `j`. -/
def Channel.bytesLeft : Channel → Nat
  | .green => 3
  | .red => 2
  | .blue => 1

/-- How many sequencer steps are left from a position to `IDLE`, its own included (R172: `[INIT: 1] + [INIT or
CLEAR: N] + 4 + 3N + TRAILER_LEN + 1` from the entries). -/
def Seq.stepsLeft (p : Params) : Seq → Nat
  | .idle => 0
  | .settle => 1
  | .trl k => (p.trailerLen - k) + 1
  | .pay i j => 3 * (p.pixels - (i + 1)) + j.bytesLeft + p.trailerLen + 1
  | .hdr k => (Config.headerLen - k) + 3 * p.pixels + p.trailerLen + 1
  | .clr i => (p.pixels - i) + Config.headerLen + 3 * p.pixels + p.trailerLen + 1
  | .cfg => 1 + p.pixels + Config.headerLen + 3 * p.pixels + p.trailerLen + 1

/-- How many clocks a render cycle takes when both services answer in the clock after the call: a step that
hands over a call takes two, its issue and its completion half (R160). -/
def renderClocks (p : Params) : Nat := 2 * (Config.headerLen + 3 * p.pixels + p.trailerLen + 1)

/-- How many clocks a driver operation takes from its entry under the same services: `CFG` and each `CLR` take one
clock (R160). -/
def opClocks (p : Params) : Instr → Nat
  | .init => 1 + p.pixels + renderClocks p
  | .clear => p.pixels + renderClocks p
  | .render => renderClocks p
  | .count | .compose _ _ _ | .setrgb _ _ _ _ | .setpacked _ _ => 0

end Sys2Proof.Machine
end

