-- ==== Sys2Proof/Machine/Run.lean ====
section
/-! DEFINITION. The environment's side of a run (rules R16, R39 to R42, R229): what the host, the transport and
the delay service put on the inputs at each clock edge. Between two steps the environment may set the input
levels and offer more command words; it changes nothing else. -/

namespace Sys2Proof.Machine

/-- What the environment puts on the inputs for one clock. -/
structure Inputs where
  /-- The level of `rst` (R39). -/
  rst : Bool
  /-- The level of `tx_done` (R41). -/
  txDone : Bool
  /-- The level of `dly_done` (R42). -/
  dlyDone : Bool
  /-- Command words the host adds behind those it already offers (R229). -/
  offered : List CmdWord
deriving DecidableEq, Repr

/-- The state with the environment's inputs on its ports. -/
def State.withInputs (s : State) (e : Inputs) : State :=
  { s with rst := e.rst, txDone := e.txDone, dlyDone := e.dlyDone, cmds := s.cmds ++ e.offered }

/-- One clock with the environment's inputs. -/
def clock (e : Inputs) (s : State) : Host.Outcome State Fault Refusal := step (s.withInputs e)

/-- A run of clocks, stopping at the first refusal. -/
def runClocks : List Inputs → State → Host.Outcome State Fault Refusal
  | [], s => .next s
  | e :: rest, s =>
    match clock e s with
    | .next t => runClocks rest t
    | .fault r => .fault r
    | .refused r => .refused r

/-- A run has ended when every word has been accepted and `SEQ = IDLE` again (R229). -/
def State.ended (s : State) : Bool := decide (s.seq = .idle) && s.cmds.isEmpty

/-- What a claim may observe (R14, R229): the trace, the responses in order, and the contents of `PIX`. -/
def State.observed (s : State) : List Event × List Word × Memory := (s.out, s.responses, s.pix)

end Sys2Proof.Machine
end

