-- ==== Sys2Proof/Safety.lean ====
section
/-! DEFINITION. What every state of a run meets, in the words claims use: the block's invariants (rules R22 to
R24, R26, R29, R36, R131, R142, R160), and the states that statements start from. -/

namespace Sys2Proof.Machine

/-- The counters of `SEQ` lie in the ranges of R26. -/
def Seq.inRange (p : Params) : Seq → Prop
  | .idle | .cfg | .settle => True
  | .clr i => i < p.pixels
  | .hdr k => k < Config.headerLen
  | .pay i _ => i < p.pixels
  | .trl k => k < p.trailerLen

/-- How many pixels are sure to have been written once `CONFIGURED = 1`: in the Clear cycle those below its
counter, at any other position all of them (R142, R163). -/
def Seq.written (p : Params) : Seq → Nat
  | .clr i => i
  | .idle | .cfg | .hdr _ | .pay _ _ | .trl _ | .settle => p.pixels

/-- The positions that only a configured block reaches: all but `IDLE` and `CFG` (R162, R136). -/
def Seq.afterConfigure : Seq → Bool
  | .idle | .cfg => false
  | .clr _ | .hdr _ | .pay _ _ | .trl _ | .settle => true

/-- `PIX` is canonical, holds only indices below `N` (R21, R59), and every written word has the three marker
bits and a zero top byte (R23). -/
structure State.PixOk (s : State) : Prop where
  canonical : s.pix.wf
  bounded : ∀ c ∈ s.pix, c.1 < s.params.pixels
  markers : ∀ c ∈ s.pix, marked c.2 = true

/-- `SEQ` and `WAIT` are in range: the counters (R26), and `WAIT = 1` only at a step with two halves (R160). -/
structure State.SeqOk (s : State) : Prop where
  counters : s.seq.inRange s.params
  waiting : s.wait = true → s.seq.isHandshake = true

/-- The lifecycle (R29, R131, R142): past `CFG` the block is configured; a configured block has written every
pixel but those its Clear cycle has still to write; the first event ever issued is the `Cfg` event, and a
configured block has issued it. -/
structure State.LifeOk (s : State) : Prop where
  configuredPast : s.seq.afterConfigure = true → s.configured = true
  writtenBelow : s.configured = true → ∀ i < s.seq.written s.params, (s.pix.read i).isSome = true
  cfgFirst : ∀ e, s.out.head? = some e → e = cfgEvent s.params
  cfgIssued : s.configured = true → s.out ≠ []

/-- The invariant of every run, mid-frame resets included. -/
structure State.Inv (s : State) : Prop where
  params : s.params.wellFormed = true
  pix : s.PixOk
  seq : s.SeqOk
  life : s.LifeOk

/-- The buffer holds exactly the words `ws`: one for each index below `N`, in index order. -/
def State.holds (s : State) (ws : List Word) : Prop :=
  ws.length = s.params.pixels ∧ ∀ i (h : i < ws.length), s.pix.read i = some ws[i]

/-- The block of a well-formed instance between two commands: out of reset, idle, nothing outstanding. -/
structure State.Resting (s : State) : Prop where
  params : s.params.wellFormed = true
  rst : s.rst = false
  seq : s.seq = .idle
  wait : s.wait = false

/-- Both services answer in the clock after a call: their levels stand at 1 (the strongest form of the fairness
assumption, R228). -/
def State.Prompt (s : State) : Prop := s.txDone = true ∧ s.dlyDone = true

/-- Two states alike in all that decides where the sequencer goes next: everything but pixel words, responses and
the trace (R172). -/
structure State.SameControl (s t : State) : Prop where
  params : t.params = s.params
  seq : t.seq = s.seq
  wait : t.wait = s.wait
  configured : t.configured = s.configured
  rst : t.rst = s.rst
  txDone : t.txDone = s.txDone
  dlyDone : t.dlyDone = s.dlyDone
  cmds : t.cmds = s.cmds

end Sys2Proof.Machine
end

