-- ==== Sys2Proof/Laws/State.lean ====
section
/-! SUPPORT. What each named operation does to each field of State: one lemma per field and operation, so that no
proof unfolds a record update. -/

namespace Sys2Proof.Machine

variable (s : State)

/-! ## `storePixel` -/

@[simp] theorem State.storePixel_params (i : Nat) (w : Word) :
    (s.storePixel i w).params = s.params := by unfold State.storePixel; split <;> rfl
@[simp] theorem State.storePixel_configured (i : Nat) (w : Word) :
    (s.storePixel i w).configured = s.configured := by unfold State.storePixel; split <;> rfl
@[simp] theorem State.storePixel_seq (i : Nat) (w : Word) :
    (s.storePixel i w).seq = s.seq := by unfold State.storePixel; split <;> rfl
@[simp] theorem State.storePixel_wait (i : Nat) (w : Word) :
    (s.storePixel i w).wait = s.wait := by unfold State.storePixel; split <;> rfl
@[simp] theorem State.storePixel_out (i : Nat) (w : Word) :
    (s.storePixel i w).out = s.out := by unfold State.storePixel; split <;> rfl
@[simp] theorem State.storePixel_rsp (i : Nat) (w : Word) :
    (s.storePixel i w).rsp = s.rsp := by unfold State.storePixel; split <;> rfl
@[simp] theorem State.storePixel_responses (i : Nat) (w : Word) :
    (s.storePixel i w).responses = s.responses := by unfold State.storePixel; split <;> rfl
@[simp] theorem State.storePixel_strobe (i : Nat) (w : Word) :
    (s.storePixel i w).strobe = s.strobe := by unfold State.storePixel; split <;> rfl
@[simp] theorem State.storePixel_rspValid (i : Nat) (w : Word) :
    (s.storePixel i w).rspValid = s.rspValid := by unfold State.storePixel; split <;> rfl
@[simp] theorem State.storePixel_rst (i : Nat) (w : Word) :
    (s.storePixel i w).rst = s.rst := by unfold State.storePixel; split <;> rfl
@[simp] theorem State.storePixel_txDone (i : Nat) (w : Word) :
    (s.storePixel i w).txDone = s.txDone := by unfold State.storePixel; split <;> rfl
@[simp] theorem State.storePixel_dlyDone (i : Nat) (w : Word) :
    (s.storePixel i w).dlyDone = s.dlyDone := by unfold State.storePixel; split <;> rfl
@[simp] theorem State.storePixel_cmds (i : Nat) (w : Word) :
    (s.storePixel i w).cmds = s.cmds := by unfold State.storePixel; split <;> rfl
@[simp] theorem State.storePixel_draws (i : Nat) (w : Word) :
    (s.storePixel i w).draws = s.draws := by unfold State.storePixel; split <;> rfl

/-! ## `emit` -/

@[simp] theorem State.emit_params (e : Event) : (s.emit e).params = s.params := rfl
@[simp] theorem State.emit_pix (e : Event) : (s.emit e).pix = s.pix := rfl
@[simp] theorem State.emit_configured (e : Event) : (s.emit e).configured = s.configured := rfl
@[simp] theorem State.emit_seq (e : Event) : (s.emit e).seq = s.seq := rfl
@[simp] theorem State.emit_wait (e : Event) : (s.emit e).wait = s.wait := rfl
@[simp] theorem State.emit_out (e : Event) : (s.emit e).out = s.out ++ [e] := rfl
@[simp] theorem State.emit_rsp (e : Event) : (s.emit e).rsp = s.rsp := rfl
@[simp] theorem State.emit_responses (e : Event) : (s.emit e).responses = s.responses := rfl
@[simp] theorem State.emit_strobe (e : Event) : (s.emit e).strobe = some e := rfl
@[simp] theorem State.emit_rspValid (e : Event) : (s.emit e).rspValid = s.rspValid := rfl
@[simp] theorem State.emit_rst (e : Event) : (s.emit e).rst = s.rst := rfl
@[simp] theorem State.emit_txDone (e : Event) : (s.emit e).txDone = s.txDone := rfl
@[simp] theorem State.emit_dlyDone (e : Event) : (s.emit e).dlyDone = s.dlyDone := rfl
@[simp] theorem State.emit_cmds (e : Event) : (s.emit e).cmds = s.cmds := rfl
@[simp] theorem State.emit_draws (e : Event) : (s.emit e).draws = s.draws := rfl

/-! ## `handOver` -/

@[simp] theorem State.handOver_params (e : Event) : (s.handOver e).params = s.params := rfl
@[simp] theorem State.handOver_pix (e : Event) : (s.handOver e).pix = s.pix := rfl
@[simp] theorem State.handOver_configured (e : Event) : (s.handOver e).configured = s.configured := rfl
@[simp] theorem State.handOver_seq (e : Event) : (s.handOver e).seq = s.seq := rfl
@[simp] theorem State.handOver_wait (e : Event) : (s.handOver e).wait = true := rfl
@[simp] theorem State.handOver_out (e : Event) : (s.handOver e).out = s.out ++ [e] := rfl
@[simp] theorem State.handOver_rsp (e : Event) : (s.handOver e).rsp = s.rsp := rfl
@[simp] theorem State.handOver_responses (e : Event) : (s.handOver e).responses = s.responses := rfl
@[simp] theorem State.handOver_strobe (e : Event) : (s.handOver e).strobe = some e := rfl
@[simp] theorem State.handOver_rspValid (e : Event) : (s.handOver e).rspValid = s.rspValid := rfl
@[simp] theorem State.handOver_rst (e : Event) : (s.handOver e).rst = s.rst := rfl
@[simp] theorem State.handOver_txDone (e : Event) : (s.handOver e).txDone = s.txDone := rfl
@[simp] theorem State.handOver_dlyDone (e : Event) : (s.handOver e).dlyDone = s.dlyDone := rfl
@[simp] theorem State.handOver_cmds (e : Event) : (s.handOver e).cmds = s.cmds := rfl
@[simp] theorem State.handOver_draws (e : Event) : (s.handOver e).draws = s.draws := rfl

/-! ## `goto` -/

@[simp] theorem State.goto_params (q : Seq) : (s.goto q).params = s.params := rfl
@[simp] theorem State.goto_pix (q : Seq) : (s.goto q).pix = s.pix := rfl
@[simp] theorem State.goto_configured (q : Seq) : (s.goto q).configured = s.configured := rfl
@[simp] theorem State.goto_seq (q : Seq) : (s.goto q).seq = q := rfl
@[simp] theorem State.goto_wait (q : Seq) : (s.goto q).wait = s.wait := rfl
@[simp] theorem State.goto_out (q : Seq) : (s.goto q).out = s.out := rfl
@[simp] theorem State.goto_rsp (q : Seq) : (s.goto q).rsp = s.rsp := rfl
@[simp] theorem State.goto_responses (q : Seq) : (s.goto q).responses = s.responses := rfl
@[simp] theorem State.goto_strobe (q : Seq) : (s.goto q).strobe = s.strobe := rfl
@[simp] theorem State.goto_rspValid (q : Seq) : (s.goto q).rspValid = s.rspValid := rfl
@[simp] theorem State.goto_rst (q : Seq) : (s.goto q).rst = s.rst := rfl
@[simp] theorem State.goto_txDone (q : Seq) : (s.goto q).txDone = s.txDone := rfl
@[simp] theorem State.goto_dlyDone (q : Seq) : (s.goto q).dlyDone = s.dlyDone := rfl
@[simp] theorem State.goto_cmds (q : Seq) : (s.goto q).cmds = s.cmds := rfl
@[simp] theorem State.goto_draws (q : Seq) : (s.goto q).draws = s.draws := rfl

/-! ## `respond` -/

@[simp] theorem State.respond_params (v : Word) : (s.respond v).params = s.params := rfl
@[simp] theorem State.respond_pix (v : Word) : (s.respond v).pix = s.pix := rfl
@[simp] theorem State.respond_configured (v : Word) : (s.respond v).configured = s.configured := rfl
@[simp] theorem State.respond_seq (v : Word) : (s.respond v).seq = s.seq := rfl
@[simp] theorem State.respond_wait (v : Word) : (s.respond v).wait = s.wait := rfl
@[simp] theorem State.respond_out (v : Word) : (s.respond v).out = s.out := rfl
@[simp] theorem State.respond_rsp (v : Word) : (s.respond v).rsp = v := rfl
@[simp] theorem State.respond_responses (v : Word) : (s.respond v).responses = s.responses ++ [v] := rfl
@[simp] theorem State.respond_strobe (v : Word) : (s.respond v).strobe = s.strobe := rfl
@[simp] theorem State.respond_rspValid (v : Word) : (s.respond v).rspValid = true := rfl
@[simp] theorem State.respond_rst (v : Word) : (s.respond v).rst = s.rst := rfl
@[simp] theorem State.respond_txDone (v : Word) : (s.respond v).txDone = s.txDone := rfl
@[simp] theorem State.respond_dlyDone (v : Word) : (s.respond v).dlyDone = s.dlyDone := rfl
@[simp] theorem State.respond_cmds (v : Word) : (s.respond v).cmds = s.cmds := rfl
@[simp] theorem State.respond_draws (v : Word) : (s.respond v).draws = s.draws := rfl

/-! ## `endPulses` -/

@[simp] theorem State.endPulses_params : s.endPulses.params = s.params := rfl
@[simp] theorem State.endPulses_pix : s.endPulses.pix = s.pix := rfl
@[simp] theorem State.endPulses_configured : s.endPulses.configured = s.configured := rfl
@[simp] theorem State.endPulses_seq : s.endPulses.seq = s.seq := rfl
@[simp] theorem State.endPulses_wait : s.endPulses.wait = s.wait := rfl
@[simp] theorem State.endPulses_out : s.endPulses.out = s.out := rfl
@[simp] theorem State.endPulses_rsp : s.endPulses.rsp = s.rsp := rfl
@[simp] theorem State.endPulses_responses : s.endPulses.responses = s.responses := rfl
@[simp] theorem State.endPulses_strobe : s.endPulses.strobe = none := rfl
@[simp] theorem State.endPulses_rspValid : s.endPulses.rspValid = false := rfl
@[simp] theorem State.endPulses_rst : s.endPulses.rst = s.rst := rfl
@[simp] theorem State.endPulses_txDone : s.endPulses.txDone = s.txDone := rfl
@[simp] theorem State.endPulses_dlyDone : s.endPulses.dlyDone = s.dlyDone := rfl
@[simp] theorem State.endPulses_cmds : s.endPulses.cmds = s.cmds := rfl
@[simp] theorem State.endPulses_draws : s.endPulses.draws = s.draws := rfl

/-! ## `sendPixelByte` -/

@[simp] theorem State.sendPixelByte_params (i : Nat) (j : Channel) : (s.sendPixelByte i j).params = s.params := rfl
@[simp] theorem State.sendPixelByte_pix (i : Nat) (j : Channel) : (s.sendPixelByte i j).pix = s.pix := rfl
@[simp] theorem State.sendPixelByte_configured (i : Nat) (j : Channel) :
    (s.sendPixelByte i j).configured = s.configured := rfl
@[simp] theorem State.sendPixelByte_seq (i : Nat) (j : Channel) : (s.sendPixelByte i j).seq = s.seq := rfl
@[simp] theorem State.sendPixelByte_wait (i : Nat) (j : Channel) : (s.sendPixelByte i j).wait = true := rfl
@[simp] theorem State.sendPixelByte_out (i : Nat) (j : Channel) :
    (s.sendPixelByte i j).out = s.out ++ [.tx (s.pix.byteAt i j s.draws).1] := rfl
@[simp] theorem State.sendPixelByte_rsp (i : Nat) (j : Channel) : (s.sendPixelByte i j).rsp = s.rsp := rfl
@[simp] theorem State.sendPixelByte_responses (i : Nat) (j : Channel) :
    (s.sendPixelByte i j).responses = s.responses := rfl
@[simp] theorem State.sendPixelByte_strobe (i : Nat) (j : Channel) :
    (s.sendPixelByte i j).strobe = some (.tx (s.pix.byteAt i j s.draws).1) := rfl
@[simp] theorem State.sendPixelByte_rspValid (i : Nat) (j : Channel) :
    (s.sendPixelByte i j).rspValid = s.rspValid := rfl
@[simp] theorem State.sendPixelByte_rst (i : Nat) (j : Channel) : (s.sendPixelByte i j).rst = s.rst := rfl
@[simp] theorem State.sendPixelByte_txDone (i : Nat) (j : Channel) : (s.sendPixelByte i j).txDone = s.txDone := rfl
@[simp] theorem State.sendPixelByte_dlyDone (i : Nat) (j : Channel) : (s.sendPixelByte i j).dlyDone = s.dlyDone := rfl
@[simp] theorem State.sendPixelByte_cmds (i : Nat) (j : Channel) : (s.sendPixelByte i j).cmds = s.cmds := rfl
@[simp] theorem State.sendPixelByte_draws (i : Nat) (j : Channel) :
    (s.sendPixelByte i j).draws = (s.pix.byteAt i j s.draws).2 := rfl

/-! ## `configure` -/

@[simp] theorem State.configure_params : s.configure.params = s.params := rfl
@[simp] theorem State.configure_pix : s.configure.pix = s.pix := rfl
@[simp] theorem State.configure_configured : s.configure.configured = true := rfl
@[simp] theorem State.configure_seq : s.configure.seq = s.seq := rfl
@[simp] theorem State.configure_wait : s.configure.wait = s.wait := rfl
@[simp] theorem State.configure_out : s.configure.out = s.out ++ [cfgEvent s.params] := rfl
@[simp] theorem State.configure_rsp : s.configure.rsp = s.rsp := rfl
@[simp] theorem State.configure_responses : s.configure.responses = s.responses := rfl
@[simp] theorem State.configure_strobe : s.configure.strobe = some (cfgEvent s.params) := rfl
@[simp] theorem State.configure_rspValid : s.configure.rspValid = s.rspValid := rfl
@[simp] theorem State.configure_rst : s.configure.rst = s.rst := rfl
@[simp] theorem State.configure_txDone : s.configure.txDone = s.txDone := rfl
@[simp] theorem State.configure_dlyDone : s.configure.dlyDone = s.dlyDone := rfl
@[simp] theorem State.configure_cmds : s.configure.cmds = s.cmds := rfl
@[simp] theorem State.configure_draws : s.configure.draws = s.draws := rfl

/-! ## `resetEvent` -/

@[simp] theorem State.resetEvent_params : s.resetEvent.params = s.params := rfl
@[simp] theorem State.resetEvent_pix : s.resetEvent.pix = [] := rfl
@[simp] theorem State.resetEvent_configured : s.resetEvent.configured = false := rfl
@[simp] theorem State.resetEvent_seq : s.resetEvent.seq = .idle := rfl
@[simp] theorem State.resetEvent_wait : s.resetEvent.wait = false := rfl
@[simp] theorem State.resetEvent_out : s.resetEvent.out = s.out := rfl
@[simp] theorem State.resetEvent_rsp : s.resetEvent.rsp = Config.freeResponse s.draws := rfl
@[simp] theorem State.resetEvent_responses : s.resetEvent.responses = s.responses := rfl
@[simp] theorem State.resetEvent_strobe : s.resetEvent.strobe = none := rfl
@[simp] theorem State.resetEvent_rspValid : s.resetEvent.rspValid = false := rfl
@[simp] theorem State.resetEvent_rst : s.resetEvent.rst = s.rst := rfl
@[simp] theorem State.resetEvent_txDone : s.resetEvent.txDone = s.txDone := rfl
@[simp] theorem State.resetEvent_dlyDone : s.resetEvent.dlyDone = s.dlyDone := rfl
@[simp] theorem State.resetEvent_cmds : s.resetEvent.cmds = s.cmds := rfl
@[simp] theorem State.resetEvent_draws : s.resetEvent.draws = s.draws + 1 := rfl

/-! ## `accept` -/

@[simp] theorem State.accept_params : s.accept.params = s.params := rfl
@[simp] theorem State.accept_pix : s.accept.pix = s.pix := rfl
@[simp] theorem State.accept_configured : s.accept.configured = s.configured := rfl
@[simp] theorem State.accept_seq : s.accept.seq = s.seq := rfl
@[simp] theorem State.accept_wait : s.accept.wait = s.wait := rfl
@[simp] theorem State.accept_out : s.accept.out = s.out := rfl
@[simp] theorem State.accept_rsp : s.accept.rsp = s.rsp := rfl
@[simp] theorem State.accept_responses : s.accept.responses = s.responses := rfl
@[simp] theorem State.accept_strobe : s.accept.strobe = none := rfl
@[simp] theorem State.accept_rspValid : s.accept.rspValid = false := rfl
@[simp] theorem State.accept_rst : s.accept.rst = s.rst := rfl
@[simp] theorem State.accept_txDone : s.accept.txDone = s.txDone := rfl
@[simp] theorem State.accept_dlyDone : s.accept.dlyDone = s.dlyDone := rfl
@[simp] theorem State.accept_cmds : s.accept.cmds = s.cmds.tail := rfl
@[simp] theorem State.accept_draws : s.accept.draws = s.draws := rfl

/-! ## `withInputs` -/

@[simp] theorem State.withInputs_params (e : Inputs) : (s.withInputs e).params = s.params := rfl
@[simp] theorem State.withInputs_pix (e : Inputs) : (s.withInputs e).pix = s.pix := rfl
@[simp] theorem State.withInputs_configured (e : Inputs) : (s.withInputs e).configured = s.configured := rfl
@[simp] theorem State.withInputs_seq (e : Inputs) : (s.withInputs e).seq = s.seq := rfl
@[simp] theorem State.withInputs_wait (e : Inputs) : (s.withInputs e).wait = s.wait := rfl
@[simp] theorem State.withInputs_out (e : Inputs) : (s.withInputs e).out = s.out := rfl
@[simp] theorem State.withInputs_rsp (e : Inputs) : (s.withInputs e).rsp = s.rsp := rfl
@[simp] theorem State.withInputs_responses (e : Inputs) : (s.withInputs e).responses = s.responses := rfl
@[simp] theorem State.withInputs_strobe (e : Inputs) : (s.withInputs e).strobe = s.strobe := rfl
@[simp] theorem State.withInputs_rspValid (e : Inputs) : (s.withInputs e).rspValid = s.rspValid := rfl
@[simp] theorem State.withInputs_rst (e : Inputs) : (s.withInputs e).rst = e.rst := rfl
@[simp] theorem State.withInputs_txDone (e : Inputs) : (s.withInputs e).txDone = e.txDone := rfl
@[simp] theorem State.withInputs_dlyDone (e : Inputs) : (s.withInputs e).dlyDone = e.dlyDone := rfl
@[simp] theorem State.withInputs_cmds (e : Inputs) : (s.withInputs e).cmds = s.cmds ++ e.offered := rfl
@[simp] theorem State.withInputs_draws (e : Inputs) : (s.withInputs e).draws = s.draws := rfl

/-- States alike in every field are equal. -/
theorem State.eq_of_fields {s t : State}
    (params_eq : s.params = t.params) (pix_eq : s.pix = t.pix) (configured_eq : s.configured = t.configured)
    (seq_eq : s.seq = t.seq) (wait_eq : s.wait = t.wait) (out_eq : s.out = t.out) (rsp_eq : s.rsp = t.rsp)
    (responses_eq : s.responses = t.responses) (strobe_eq : s.strobe = t.strobe)
    (rspValid_eq : s.rspValid = t.rspValid) (rst_eq : s.rst = t.rst) (txDone_eq : s.txDone = t.txDone)
    (dlyDone_eq : s.dlyDone = t.dlyDone) (cmds_eq : s.cmds = t.cmds) (draws_eq : s.draws = t.draws) : s = t := by
  cases s
  cases t
  simp only at *
  subst_vars
  rfl

theorem State.storePixel_of_lt {i : Nat} (h : i < s.params.pixels) (w : Word) :
    s.storePixel i w = { s with pix := s.pix.write i w } := by simp [State.storePixel, h]

theorem State.storePixel_of_ge {i : Nat} (h : s.params.pixels ≤ i) (w : Word) : s.storePixel i w = s := by
  simp [State.storePixel, Nat.not_lt.mpr h]

@[simp] theorem State.busy_eq_false : s.busy = false ↔ s.seq = .idle := by simp [State.busy]

@[simp] theorem State.busy_eq_true : s.busy = true ↔ s.seq ≠ .idle := by simp [State.busy]

end Sys2Proof.Machine
end

