-- ==== Sys2Proof/Laws/Memory.lean ====
section
/-! SUPPORT. The laws of `PIX` as a list of written entries: a read after a write, the canonical form, and what a
store leaves alone. -/

namespace Sys2Proof.Machine

theorem Memory.mem_write {m : Memory} {i : Nat} {w : Word} {c : PixCell} (h : c ∈ m.write i w) :
    c = (i, w) ∨ c ∈ m := by
  induction m with
  | nil => simpa [Memory.write] using h
  | cons a rest ih =>
    obtain ⟨k, v⟩ := a
    simp only [Memory.write] at h
    split at h
    · simpa using h
    · split at h
      · rcases List.mem_cons.mp h with h | h
        · exact .inl h
        · exact .inr (List.mem_cons_of_mem _ h)
      · rcases List.mem_cons.mp h with h | h
        · exact .inr (by simp [h])
        · rcases ih h with h | h
          · exact .inl h
          · exact .inr (List.mem_cons_of_mem _ h)

theorem Memory.wf_write {m : Memory} (h : m.wf) (i : Nat) (w : Word) : (m.write i w).wf := by
  induction m with
  | nil => simp [Memory.write]
  | cons a rest ih =>
    obtain ⟨k, v⟩ := a
    obtain ⟨hk, hr⟩ := List.pairwise_cons.mp h
    simp only [Memory.write]
    split
    · rename_i hik
      refine List.pairwise_cons.mpr ⟨fun c hc => ?_, h⟩
      rcases List.mem_cons.mp hc with rfl | hc
      · exact hik
      · exact Nat.lt_trans hik (hk c hc)
    · split
      · rename_i hik
        subst hik
        exact List.pairwise_cons.mpr ⟨hk, hr⟩
      · rename_i hlt hne
        refine List.pairwise_cons.mpr ⟨fun c hc => ?_, ih hr⟩
        rcases Memory.mem_write hc with rfl | hc
        · simp only; omega
        · exact hk c hc

/-- No entry is listed below a canonical list's first index. -/
theorem Memory.read_eq_none {m : Memory} {i : Nat} (h : ∀ c ∈ m, i < c.1) : m.read i = none := by
  induction m with
  | nil => rfl
  | cons a rest ih =>
    have ha := h a (by simp)
    simp only [Memory.read]
    rw [if_neg (by omega)]
    exact ih fun c hc => h c (List.mem_cons_of_mem _ hc)

@[simp] theorem Memory.read_write_same (m : Memory) (i : Nat) (w : Word) : (m.write i w).read i = some w := by
  induction m with
  | nil => simp [Memory.write, Memory.read]
  | cons a rest ih =>
    obtain ⟨k, v⟩ := a
    simp only [Memory.write]
    split
    · simp [Memory.read]
    · split
      · simp [Memory.read]
      · rename_i hlt hne
        simp only [Memory.read, ih]
        rw [if_neg (by omega)]

theorem Memory.read_write_other (m : Memory) {i k : Nat} (h : k ≠ i) (w : Word) :
    (m.write i w).read k = m.read k := by
  induction m with
  | nil => simp [Memory.write, Memory.read, Ne.symm h]
  | cons a rest ih =>
    obtain ⟨j, v⟩ := a
    simp only [Memory.write]
    split
    · simp [Memory.read, Ne.symm h]
    · split
      · rename_i hij
        subst hij
        simp [Memory.read, Ne.symm h]
      · simp only [Memory.read, ih]

theorem Memory.read_mem {m : Memory} {i : Nat} {w : Word} (h : m.read i = some w) : (i, w) ∈ m := by
  induction m with
  | nil => simp [Memory.read] at h
  | cons a rest ih =>
    simp only [Memory.read] at h
    split at h
    · rename_i hk
      subst hk
      cases h
      simp
    · exact List.mem_cons_of_mem _ (ih h)

/-- Canonical memories are equal when every index reads alike. -/
theorem Memory.ext_read {m k : Memory} (hm : m.wf) (hk : k.wf) (h : ∀ i, m.read i = k.read i) : m = k := by
  induction m generalizing k with
  | nil =>
    cases k with
    | nil => rfl
    | cons b rest => have := h b.1; simp [Memory.read] at this
  | cons a rest ih =>
    cases k with
    | nil => have := h a.1; simp [Memory.read] at this
    | cons b rest' =>
      obtain ⟨ha, hr⟩ := List.pairwise_cons.mp hm
      obtain ⟨hb, hr'⟩ := List.pairwise_cons.mp hk
      have key : a.1 = b.1 := by
        rcases Nat.lt_trichotomy a.1 b.1 with hl | he | hl
        · have := h a.1
          rw [Memory.read_eq_none (m := b :: rest')] at this
          · simp [Memory.read] at this
          · intro c hc
            rcases List.mem_cons.mp hc with rfl | hc
            · exact hl
            · exact Nat.lt_trans hl (hb c hc)
        · exact he
        · have := h b.1
          rw [Memory.read_eq_none (m := a :: rest)] at this
          · simp [Memory.read] at this
          · intro c hc
            rcases List.mem_cons.mp hc with rfl | hc
            · exact hl
            · exact Nat.lt_trans hl (ha c hc)
      have hv : a.2 = b.2 := by
        have := h a.1
        simpa [Memory.read, key] using this
      have : a = b := Prod.ext key hv
      subst this
      congr 1
      refine ih hr hr' fun i => ?_
      by_cases hi : a.1 = i
      · subst hi
        rw [Memory.read_eq_none ha, Memory.read_eq_none hb]
      · have := h i
        simpa [Memory.read, hi] using this

theorem Memory.byteAt_of_read {m : Memory} {i : Nat} {w : Word} (h : m.read i = some w) (j : Channel) (d : Nat) :
    m.byteAt i j d = (j.byteOf w, d) := by
  simp [Memory.byteAt, h]

theorem Memory.byteAt_of_undef {m : Memory} {i : Nat} (h : m.read i = none) (j : Channel) (d : Nat) :
    m.byteAt i j d = (Config.freeByte d, d + 1) := by
  simp [Memory.byteAt, h]

/-- A store at an index below `N` is read back; every other index reads as before. -/
theorem State.read_storePixel (s : State) {i : Nat} (h : i < s.params.pixels) (w : Word) (k : Nat) :
    (s.storePixel i w).pix.read k = if k = i then some w else s.pix.read k := by
  rw [State.storePixel_of_lt s h]
  split
  · rename_i hk
    simp [hk]
  · rename_i hk
    exact Memory.read_write_other _ hk _

/-- Every store keeps `PIX` canonical, bounded and marked, if the word stored is marked. -/
theorem State.pixOk_storePixel {s : State} (h : s.PixOk) (i : Nat) {w : Word} (hw : marked w = true) :
    (s.storePixel i w).PixOk := by
  by_cases hi : i < s.params.pixels
  · rw [State.storePixel_of_lt s hi]
    refine ⟨Memory.wf_write h.canonical i w, fun c hc => ?_, fun c hc => ?_⟩
    · rcases Memory.mem_write hc with rfl | hc
      · exact hi
      · exact h.bounded c hc
    · rcases Memory.mem_write hc with rfl | hc
      · exact hw
      · exact h.markers c hc
  · rwa [State.storePixel_of_ge s (Nat.le_of_not_lt hi)]

/-- The canonical form of `PIX` is kept by a store of any word. -/
theorem State.wf_storePixel {s : State} (h : s.pix.wf) (i : Nat) (w : Word) : (s.storePixel i w).pix.wf := by
  unfold State.storePixel
  split
  · exact Memory.wf_write h i w
  · exact h

/-- The reset state's memory has the canonical form. -/
theorem State.wf_construct (p : Params) : (State.construct p).pix.wf := List.Pairwise.nil

theorem State.wf_resetEvent (s : State) : s.resetEvent.pix.wf := List.Pairwise.nil

end Sys2Proof.Machine
end

