-- ==== Sys2Proof/Laws/Operands.lean ====
section
/-! SUPPORT. The bits of marked bytes and packed words. -/

namespace Sys2Proof.Machine

theorem mark_getLsbD (v : Byte) {k : Nat} (h : k < 7) : (mark v).getLsbD k = v.getLsbD k := by
  have : k = 0 ∨ k = 1 ∨ k = 2 ∨ k = 3 ∨ k = 4 ∨ k = 5 ∨ k = 6 := by omega
  rcases this with rfl | rfl | rfl | rfl | rfl | rfl | rfl <;> simp [mark]

theorem mark_bit7 (v : Byte) : (mark v).getLsbD 7 = true := by simp [mark]

theorem mark_msb (v : Byte) : markerBit (mark v) = true := by
  simp [markerBit, BitVec.msb_eq_getLsbD_last, mark_bit7]

theorem mark_mark (v : Byte) : mark (mark v) = mark v := by simp [mark, BitVec.or_assoc]

@[simp] theorem green_pack (g r b : Byte) : Channel.green.byteOf (pack g r b) = g := by
  ext k hk
  simp only [Channel.byteOf, pack, BitVec.getElem_extractLsb', BitVec.getLsbD_append]
  rw [if_neg (by omega), if_neg (by omega), if_pos (by omega)]
  simp [BitVec.getLsbD_eq_getElem hk, show 16 + k - 8 - 8 = k by omega]

@[simp] theorem red_pack (g r b : Byte) : Channel.red.byteOf (pack g r b) = r := by
  ext k hk
  simp only [Channel.byteOf, pack, BitVec.getElem_extractLsb', BitVec.getLsbD_append]
  rw [if_neg (by omega), if_pos (by omega)]
  simp [BitVec.getLsbD_eq_getElem hk]

@[simp] theorem blue_pack (g r b : Byte) : Channel.blue.byteOf (pack g r b) = b := by
  ext k hk
  simp only [Channel.byteOf, pack, BitVec.getElem_extractLsb', BitVec.getLsbD_append]
  rw [if_pos (by omega)]
  simp [BitVec.getLsbD_eq_getElem hk]

theorem bytesOf_pack (g r b : Byte) : bytesOf (pack g r b) = [g, r, b] := by simp [bytesOf]

theorem bytesOf_wireWord (r g b : Byte) : bytesOf (wireWord r g b) = [mark g, mark r, mark b] :=
  bytesOf_pack _ _ _

/-- Bit `k` of a packed word: the top byte is zero, then green, red, blue. -/
theorem pack_getLsbD (g r b : Byte) (k : Nat) :
    (pack g r b).getLsbD k =
      if k < 8 then b.getLsbD k else if k < 16 then r.getLsbD (k - 8) else g.getLsbD (k - 16) := by
  simp only [pack, BitVec.getLsbD_append]
  by_cases h1 : k < 8
  · simp [h1]
  · by_cases h2 : k < 16
    · simp [h1, h2, show k - 8 < 8 by omega]
    · by_cases h3 : k < 24
      · simp [h1, h2, show ¬k - 8 < 8 by omega, show k - 8 - 8 = k - 16 by omega, show k - 16 < 8 by omega]
      · simp [h1, h2, show ¬k - 8 < 8 by omega, show k - 8 - 8 = k - 16 by omega, show ¬k - 16 < 8 by omega,
          show 8 ≤ k - 16 by omega]

/-- A word packed from marked bytes meets R23. -/
theorem marked_pack (g r b : Byte) : marked (pack (mark g) (mark r) (mark b)) = true := by
  simp only [marked, beq_iff_eq]
  apply BitVec.eq_of_getLsbD_eq
  intro k hk
  rw [BitVec.getLsbD_and, pack_getLsbD]
  interval_cases k <;> simp [mark]

/-- The bits of a written word that R23 fixes. -/
theorem getLsbD_of_marked {w : Word} (h : marked w = true) {k : Nat} (hk : (0xFF808080 : Word).getLsbD k = true) :
    w.getLsbD k = (0x00808080 : Word).getLsbD k := by
  simp only [marked, beq_iff_eq] at h
  rw [← h, BitVec.getLsbD_and, hk, Bool.and_true]

/-- Each byte sent of a written word has its marker bit. -/
theorem markerBit_of_marked {w : Word} (h : marked w = true) (j : Channel) : markerBit (j.byteOf w) = true := by
  have h7 := getLsbD_of_marked h (k := 7) (by decide)
  have h15 := getLsbD_of_marked h (k := 15) (by decide)
  have h23 := getLsbD_of_marked h (k := 23) (by decide)
  cases j <;> simp_all [markerBit, BitVec.msb_eq_getLsbD_last, Channel.byteOf]

/-- The top byte of a written word is zero, so its three sent bytes are the whole word. -/
theorem pack_byteOf_of_marked {w : Word} (h : marked w = true) :
    pack (Channel.green.byteOf w) (Channel.red.byteOf w) (Channel.blue.byteOf w) = w := by
  apply BitVec.eq_of_getLsbD_eq
  intro k hk
  rw [pack_getLsbD]
  simp only [Channel.byteOf, BitVec.getLsbD_extractLsb']
  by_cases h1 : k < 8
  · simp [h1]
  · by_cases h2 : k < 16
    · simp [h1, h2, show k - 8 < 8 by omega, show 8 + (k - 8) = k by omega]
    · by_cases h3 : k < 24
      · simp [h1, h2, show k - 16 < 8 by omega, show 16 + (k - 16) = k by omega]
      · have hz := getLsbD_of_marked h (k := k) (by interval_cases k <;> decide)
        rw [hz]
        interval_cases k <;> simp

theorem marked_wireWord (r g b : Byte) : marked (wireWord r g b) = true := marked_pack _ _ _

theorem marked_packedWord (c : Packed) : marked (packedWord c) = true := marked_pack _ _ _

theorem marked_zeroColour : marked zeroColour = true := marked_wireWord 0 0 0

end Sys2Proof.Machine
end

