-- ==== Sys2Proof/Laws/Decode.lean ====
section
/-! SUPPORT. Bits of the command word: the fields of an assembled word, the bytes of a word, and what the decoder
answers for each operation code. -/

namespace Sys2Proof

@[simp] theorem opField_assembleWord (op : Byte) (idx : Index) (data : Packed) :
    opField (assembleWord op idx data) = op := by
  ext k hk
  simp only [opField, assembleWord, BitVec.getElem_extractLsb', BitVec.getLsbD_append]
  rw [if_neg (by omega), if_neg (by omega), show 40 + k - 24 - 16 = k by omega, BitVec.getLsbD_eq_getElem hk]

@[simp] theorem idxField_assembleWord (op : Byte) (idx : Index) (data : Packed) :
    idxField (assembleWord op idx data) = idx := by
  ext k hk
  simp only [idxField, assembleWord, BitVec.getElem_extractLsb', BitVec.getLsbD_append]
  rw [if_neg (by omega), if_pos (by omega), show 24 + k - 24 = k by omega, BitVec.getLsbD_eq_getElem hk]

@[simp] theorem packedField_assembleWord (op : Byte) (idx : Index) (data : Packed) :
    packedField (assembleWord op idx data) = data := by
  ext k hk
  simp only [packedField, assembleWord, BitVec.getElem_extractLsb', BitVec.getLsbD_append]
  rw [if_pos (by omega), Nat.zero_add, BitVec.getLsbD_eq_getElem hk]

@[simp] theorem redField_assembleWord (op : Byte) (idx : Index) (red green blue : Byte) :
    redField (assembleWord op idx (channelData red green blue)) = red := by
  ext k hk
  simp only [redField, assembleWord, channelData, BitVec.getElem_extractLsb', BitVec.getLsbD_append]
  rw [if_pos (by omega), if_neg (by omega), if_neg (by omega), show 16 + k - 8 - 8 = k by omega,
    BitVec.getLsbD_eq_getElem hk]

@[simp] theorem greenField_assembleWord (op : Byte) (idx : Index) (red green blue : Byte) :
    greenField (assembleWord op idx (channelData red green blue)) = green := by
  ext k hk
  simp only [greenField, assembleWord, channelData, BitVec.getElem_extractLsb', BitVec.getLsbD_append]
  rw [if_pos (by omega), if_neg (by omega), if_pos (by omega), show 8 + k - 8 = k by omega,
    BitVec.getLsbD_eq_getElem hk]

@[simp] theorem blueField_assembleWord (op : Byte) (idx : Index) (red green blue : Byte) :
    blueField (assembleWord op idx (channelData red green blue)) = blue := by
  ext k hk
  simp only [blueField, assembleWord, channelData, BitVec.getElem_extractLsb', BitVec.getLsbD_append]
  rw [if_pos (by omega), if_pos (by omega), Nat.zero_add, BitVec.getLsbD_eq_getElem hk]

/-- Six bytes cut from a word spell the word. -/
theorem wordOfBytes_bytes (w : CmdWord) :
    wordOfBytes (w.extractLsb' 40 8) (w.extractLsb' 32 8) (w.extractLsb' 24 8) (w.extractLsb' 16 8)
      (w.extractLsb' 8 8) (w.extractLsb' 0 8) = w := by
  apply BitVec.eq_of_getLsbD_eq
  intro k hk
  simp only [wordOfBytes, BitVec.getLsbD_append, BitVec.getLsbD_extractLsb']
  interval_cases k <;> simp

/-- The decoder on bytes reads the word they spell and leaves the bytes after it. -/
theorem decodeBytes_bytesOfWord (w : CmdWord) (rest : List Byte) :
    decodeBytes (bytesOfWord w ++ rest) = (decode w).map fun i => (i, rest) := by
  simp only [bytesOfWord, List.cons_append, List.nil_append, decodeBytes, wordOfBytes_bytes]
  cases decode w <;> rfl

/-- The only words the decoder refuses are those whose operation code is reserved (R75), by that code. -/
theorem decode_error {w : CmdWord} {e : DecodeError} (h : decode w = .error e) :
    e = .reservedOpcode (opField w) := by
  unfold decode at h
  split at h <;> cases h
  rfl

end Sys2Proof
end

