-- ==== Sys2Proof/Laws/PerInstr.lean ====
section
/-! SUPPORT. Facts stated once per command. `TableRow`: the word the encoder writes for a command selects the
row of the opcode map that bears its mnemonic, and that row alone (R74), and the command is well formed. -/

namespace Sys2Proof.Laws

/-- Masking with the mask of every row of the map keeps the operation code and nothing else. -/
theorem opcode_mask (op : Byte) (idx : Index) (data : Packed) :
    assembleWord op idx data &&& 0xFF0000000000 = assembleWord op 0 0 := by
  apply BitVec.eq_of_getLsbD_eq
  intro k hk
  simp only [assembleWord, BitVec.getLsbD_and, BitVec.getLsbD_append]
  interval_cases k <;> simp

/-- The rows an assembled word selects depend on its operation code alone. -/
theorem selected_assembleWord (op : Byte) (idx : Index) (data : Packed) :
    opcodeTable.filter (·.selectedBy (assembleWord op idx data)) =
      opcodeTable.filter (·.selectedBy (assembleWord op 0 0)) := by
  simp only [opcodeTable, List.filter, OpcodeRow.selectedBy, opcode_mask]

/-- The command's word selects exactly its own row of the map. -/
def TableRow.Statement (i : Instr) : Prop :=
  (opcodeTable.filter (·.selectedBy (encode i))).map (·.mnemonic) = [i.mnemonic] ∧ i.wellFormed = true

theorem TableRow.init : TableRow.Statement .init := by
  simp only [TableRow.Statement, encode]; decide

theorem TableRow.count : TableRow.Statement .count := by
  simp only [TableRow.Statement, encode]; decide

theorem TableRow.compose (red green blue : Byte) : TableRow.Statement (.compose red green blue) := by
  simp only [TableRow.Statement, encode, selected_assembleWord, Instr.mnemonic, Instr.wellFormed]; decide

theorem TableRow.setrgb (idx : Index) (red green blue : Byte) :
    TableRow.Statement (.setrgb idx red green blue) := by
  simp only [TableRow.Statement, encode, selected_assembleWord, Instr.mnemonic, Instr.wellFormed]; decide

theorem TableRow.setpacked (idx : Index) (c : Packed) : TableRow.Statement (.setpacked idx c) := by
  simp only [TableRow.Statement, encode, selected_assembleWord, Instr.mnemonic, Instr.wellFormed]; decide

theorem TableRow.render : TableRow.Statement .render := by
  simp only [TableRow.Statement, encode]; decide

theorem TableRow.clear : TableRow.Statement .clear := by
  simp only [TableRow.Statement, encode]; decide

end Sys2Proof.Laws
end

