-- ==== Sys2Proof/Laws/Exec.lean ====
section
/-! SUPPORT. What each meaning answers, said once, and everything an accepted command can do. -/

namespace Sys2Proof.Machine

variable {s t : State}

theorem State.whenIdle_of_idle (h : s.seq = .idle) (r : Host.Outcome State Fault Refusal) : s.whenIdle r = r := by
  simp [State.whenIdle, State.busy, h]

theorem State.whenIdle_of_busy (h : s.busy = true) (r : Host.Outcome State Fault Refusal) :
    s.whenIdle r = .next s := by
  simp only [State.whenIdle, h, if_true]

theorem State.whenConfigured_of_configured (h : s.configured = true) (r : Host.Outcome State Fault Refusal) :
    s.whenConfigured r = r := by
  simp [State.whenConfigured, h]

theorem State.whenConfigured_of_not (h : s.configured = false) (r : Host.Outcome State Fault Refusal) :
    s.whenConfigured r = .refused .notConfigured := by
  simp [State.whenConfigured, h]

/-- While the block is busy no command does anything. -/
theorem exec_of_busy (h : s.busy = true) (i : Instr) : exec i s = .next s := by
  cases i <;> exact State.whenIdle_of_busy h _

theorem execCount_of_idle (h : s.seq = .idle) : execCount s = .next (s.respond (countWord s.params)) :=
  State.whenIdle_of_idle h _

theorem execCompose_of_idle (h : s.seq = .idle) (red green blue : Byte) :
    execCompose red green blue s = .next (s.respond (wireWord red green blue)) :=
  State.whenIdle_of_idle h _

theorem execSetrgb_of_idle (h : s.seq = .idle) (idx : Index) (red green blue : Byte) :
    execSetrgb idx red green blue s = .next (s.storePixel idx.toNat (wireWord red green blue)) :=
  State.whenIdle_of_idle h _

theorem execSetpacked_of_idle (h : s.seq = .idle) (idx : Index) (c : Packed) :
    execSetpacked idx c s = .next (s.storePixel idx.toNat (packedWord c)) :=
  State.whenIdle_of_idle h _

theorem execInit_of_idle (h : s.seq = .idle) : execInit s = .next (s.goto .cfg) := State.whenIdle_of_idle h _

theorem execRender_of_idle (h : s.seq = .idle) (hc : s.configured = true) :
    execRender s = .next (s.goto (.hdr 0)) :=
  (State.whenIdle_of_idle h _).trans (State.whenConfigured_of_configured hc _)

theorem execClear_of_idle (h : s.seq = .idle) (hc : s.configured = true) :
    execClear s = .next (s.goto (Seq.clearStart s.params)) :=
  (State.whenIdle_of_idle h _).trans (State.whenConfigured_of_configured hc _)

/-- Everything an accepted command can do: return a response, store a marked word, or start the sequencer at one
of its three entries. -/
inductive ExecCase (s t : State) : Prop where
  | busy (h : s.busy = true) (ht : t = s)
  | response (h : s.seq = .idle) (v : Word) (ht : t = s.respond v)
  | store (h : s.seq = .idle) (i : Nat) (w : Word) (hw : marked w = true) (ht : t = s.storePixel i w)
  | configure (h : s.seq = .idle) (ht : t = s.goto .cfg)
  | clear (h : s.seq = .idle) (hc : s.configured = true) (ht : t = s.goto (Seq.clearStart s.params))
  | render (h : s.seq = .idle) (hc : s.configured = true) (ht : t = s.goto (.hdr 0))

theorem exec_cases {i : Instr} (h : exec i s = .next t) : ExecCase s t := by
  by_cases hb : s.busy = true
  · rw [exec_of_busy hb] at h
    cases h
    exact .busy hb rfl
  · have hi : s.seq = .idle := by simpa using hb
    cases i with
    | init => rw [exec, execInit_of_idle hi] at h; cases h; exact .configure hi rfl
    | count => rw [exec, execCount_of_idle hi] at h; cases h; exact .response hi _ rfl
    | compose r g b => rw [exec, execCompose_of_idle hi] at h; cases h; exact .response hi _ rfl
    | setrgb idx r g b =>
      rw [exec, execSetrgb_of_idle hi] at h; cases h; exact .store hi _ _ (marked_wireWord r g b) rfl
    | setpacked idx c =>
      rw [exec, execSetpacked_of_idle hi] at h; cases h; exact .store hi _ _ (marked_packedWord c) rfl
    | render =>
      by_cases hc : s.configured = true
      · rw [exec, execRender_of_idle hi hc] at h; cases h; exact .render hi hc rfl
      · simp [exec, execRender, State.whenIdle_of_idle hi, State.whenConfigured, hc] at h
    | clear =>
      by_cases hc : s.configured = true
      · rw [exec, execClear_of_idle hi hc] at h; cases h; exact .clear hi hc rfl
      · simp [exec, execClear, State.whenIdle_of_idle hi, State.whenConfigured, hc] at h

/-- No command faults. -/
theorem exec_ne_fault (i : Instr) (r : Fault) : exec i s ≠ .fault r := nomatch r

end Sys2Proof.Machine
end

