-- ==== Sys2Proof/Laws/Sequencer.lean ====
section
/-! SUPPORT. One clock of the sequencer, case by case. -/

namespace Sys2Proof.Machine

variable {s : State}

@[simp] theorem State.endPulses_serviceDone (s : State) : s.endPulses.serviceDone = s.serviceDone := rfl

theorem State.tick_of_wait (h : s.wait = true) : s.tick = s.endPulses.complete := by simp [State.tick, h]

theorem State.tick_of_ready (h : s.wait = false) : s.tick = s.endPulses.issue := by simp [State.tick, h]

theorem State.tick_completes (h : s.wait = true) (hd : s.serviceDone = true) :
    s.tick = { s.endPulses with wait := false, seq := Seq.after s.params s.seq } := by
  rw [State.tick_of_wait h]
  simp [State.complete, hd]

theorem State.tick_waits (h : s.wait = true) (hd : s.serviceDone = false) : s.tick = s.endPulses := by
  rw [State.tick_of_wait h]
  simp [State.complete, hd]

/-- Everything one clock of the running sequencer can do. -/
inductive TickCase (s : State) : Prop where
  | waits (hw : s.wait = true) (hd : s.serviceDone = false) (ht : s.tick = s.endPulses)
  | completes (hw : s.wait = true) (hd : s.serviceDone = true)
      (ht : s.tick = { s.endPulses with wait := false, seq := Seq.after s.params s.seq })
  | configures (hw : s.wait = false) (hq : s.seq = .cfg)
      (ht : s.tick = s.endPulses.configure.goto (Seq.clearStart s.params))
  | clears (hw : s.wait = false) (i : Nat) (hq : s.seq = .clr i)
      (ht : s.tick = (s.endPulses.storePixel i zeroColour).goto (Seq.after s.params (.clr i)))
  | sendsZero (hw : s.wait = false) (hq : (∃ k, s.seq = .hdr k) ∨ ∃ k, s.seq = .trl k)
      (ht : s.tick = s.endPulses.handOver (.tx 0))
  | sendsPixel (hw : s.wait = false) (i : Nat) (j : Channel) (hq : s.seq = .pay i j)
      (ht : s.tick = s.endPulses.sendPixelByte i j)
  | settles (hw : s.wait = false) (hq : s.seq = .settle)
      (ht : s.tick = s.endPulses.handOver (delayEvent s.params))

theorem State.tick_cases (hb : s.busy = true) : TickCase s := by
  have hq : s.seq ≠ .idle := by simpa using hb
  by_cases hw : s.wait = true
  · by_cases hd : s.serviceDone = true
    · exact .completes hw hd (State.tick_completes hw hd)
    · have hd : s.serviceDone = false := by simpa using hd
      exact .waits hw hd (State.tick_waits hw hd)
  · have hw : s.wait = false := by simpa using hw
    have ht := State.tick_of_ready hw
    cases h : s.seq with
    | idle => exact absurd h hq
    | cfg => exact .configures hw h (by rw [ht]; simp [State.issue, h, Seq.after])
    | clr i => exact .clears hw i h (by rw [ht]; simp [State.issue, h])
    | hdr k => exact .sendsZero hw (.inl ⟨k, h⟩) (by rw [ht]; simp [State.issue, h])
    | pay i j => exact .sendsPixel hw i j h (by rw [ht]; simp [State.issue, h])
    | trl k => exact .sendsZero hw (.inr ⟨k, h⟩) (by rw [ht]; simp [State.issue, h])
    | settle => exact .settles hw h (by rw [ht]; simp [State.issue, h])

/-- A well-formed instance has a trailer (R166: "this group is never empty"). -/
theorem Params.trailer_ge {p : Params} (hp : p.wellFormed = true) : 4 ≤ p.trailerLen := by
  simp only [Params.wellFormed, Bool.and_eq_true, decide_eq_true_eq] at hp
  exact hp.1

/-- No step's next position is out of range (R26, R27). -/
theorem Seq.inRange_after {p : Params} (hp : p.wellFormed = true) {q : Seq} (h : q.inRange p) :
    (Seq.after p q).inRange p := by
  have hT : 0 < p.trailerLen := Nat.lt_of_lt_of_le (by decide) (Params.trailer_ge hp)
  cases q with
  | idle => exact True.intro
  | cfg => simp only [Seq.after, Seq.clearStart]; split <;> simp_all [Seq.inRange, Config.headerLen]
  | clr i => simp only [Seq.after]; split <;> simp_all [Seq.inRange, Config.headerLen]
  | hdr k =>
    simp only [Seq.after]
    split
    · assumption
    · split <;> simp_all [Seq.inRange]
  | pay i j =>
    cases j with
    | green => exact h
    | red => exact h
    | blue => simp only [Seq.after]; split <;> simp_all [Seq.inRange]
  | trl k => simp only [Seq.after]; split <;> simp_all [Seq.inRange]
  | settle => exact True.intro

end Sys2Proof.Machine
end

