-- ==== Sys2Proof/Laws/Step.lean ====
section
/-! SUPPORT. Everything one clock of the block can do. -/

namespace Sys2Proof.Machine

variable {s t : State}

/-- The four ways a clock answers a next state. -/
inductive StepCase (s t : State) : Prop where
  | reset (hr : s.rst = true) (ht : t = s.resetEvent)
  | runs (hr : s.rst = false) (hb : s.busy = true) (ht : t = s.tick)
  | rests (hr : s.rst = false) (hi : s.seq = .idle) (hc : s.cmds = []) (ht : t = s.endPulses)
  | accepts (hr : s.rst = false) (hi : s.seq = .idle) (w : CmdWord) (rest : List CmdWord) (i : Instr)
      (hc : s.cmds = w :: rest) (hd : decode w = .ok i) (hx : exec i s.accept = .next t)

theorem State.fetch_cons {w : CmdWord} {rest : List CmdWord} {i : Instr} (hc : s.cmds = w :: rest)
    (hd : decode w = .ok i) : s.fetch = some (.ok i) := by
  simp [State.fetch, State.offered, hc, hd]

theorem step_of_rst (h : s.rst = true) : step s = .next s.resetEvent := by simp [step, h]

theorem step_of_busy (hr : s.rst = false) (hb : s.busy = true) : step s = .next s.tick := by
  simp only [step, hr, hb, if_true]
  rfl

theorem step_of_resting (hr : s.rst = false) (hi : s.seq = .idle) (hc : s.cmds = []) :
    step s = .next s.endPulses := by
  simp [step, hr, State.busy, hi, State.fetch, State.offered, hc]

theorem step_of_accept (hr : s.rst = false) (hi : s.seq = .idle) {w : CmdWord} {rest : List CmdWord} {i : Instr}
    (hc : s.cmds = w :: rest) (hd : decode w = .ok i) : step s = exec i s.accept := by
  simp [step, hr, State.busy, hi, State.fetch_cons hc hd]

theorem step_of_reserved (hr : s.rst = false) (hi : s.seq = .idle) {w : CmdWord} {rest : List CmdWord}
    {e : DecodeError} (hc : s.cmds = w :: rest) (hd : decode w = .error e) :
    step s = .refused (.reservedOpcode (opField w)) := by
  simp [step, hr, State.busy, hi, State.fetch, State.offered, hc, hd]

theorem step_cases (h : step s = .next t) : StepCase s t := by
  by_cases hr : s.rst = true
  · rw [step_of_rst hr] at h
    cases h
    exact .reset hr rfl
  have hr : s.rst = false := by simpa using hr
  by_cases hb : s.busy = true
  · rw [step_of_busy hr hb] at h
    cases h
    exact .runs hr hb rfl
  have hi : s.seq = .idle := by simpa using hb
  cases hc : s.cmds with
  | nil =>
    rw [step_of_resting hr hi hc] at h
    cases h
    exact .rests hr hi hc rfl
  | cons w rest =>
    cases hd : decode w with
    | error e => rw [step_of_reserved hr hi hc hd] at h; cases h
    | ok i =>
      rw [step_of_accept hr hi hc hd] at h
      exact .accepts hr hi w rest i hc hd h

/-! ## Runs of steps -/

/-- A run of one more step goes on from the state the step answers. -/
theorem run_succ (M : Host.Core) (k : Nat) {s t : M.State} (h : M.step s = .next t) :
    Host.Core.run M (k + 1) s = Host.Core.run M k t := by
  simp only [Host.Core.run, h]

/-- A refusal ends a run. -/
theorem run_refused (M : Host.Core) (k : Nat) {s : M.State} {r : M.Refusal} (h : M.step s = .refused r) :
    Host.Core.run M (k + 1) s = .refused r := by
  simp only [Host.Core.run, h]

/-- A run of `a + b` steps is a run of `a` and then one of `b`. -/
theorem run_add (a b : Nat) {s t : State} (h : Host.Core.run core a s = .next t) :
    Host.Core.run core (a + b) s = Host.Core.run core b t := by
  induction a generalizing s with
  | zero => cases h; simp
  | succ a ih =>
    cases hs : step s with
    | next u =>
      have h' : Host.Core.run core a u = .next t := (run_succ core a hs).symm.trans h
      rw [show a + 1 + b = (a + b) + 1 by omega]
      exact (run_succ core (a + b) hs).trans (ih h')
    | fault r => exact nomatch r
    | refused r => exact absurd ((run_refused core a hs).symm.trans h) (by simp)

end Sys2Proof.Machine
end

