-- ==== Sys2Proof/Machine/Assembler.lean ====
section
/-! DEFINITION. The assembler syntax (rules R86 and R87, `30_encoding.md`): a command as a mnemonic followed by
its operands in decimal or `0x` hexadecimal, separated by commas, one command a line, `;` starting a comment.
DESIGN CHOICE, safe (log entry 23). -/

namespace Sys2Proof.Machine

/-- One line of assembly as written: operands are numbers of any size. -/
inductive AsmLine where
  | init
  | count
  | compose (r g b : Nat)
  | setrgb (idx r g b : Nat)
  | setpacked (idx c : Nat)
  | render
  | clear
  /-- The assembler-only pseudo-operation `SETCOLOR idx, r, g, b` (R87). -/
  | setcolor (idx r g b : Nat)
deriving DecidableEq, Repr

/-- Operand ranges (R86): `idx` 0 to 65535, channels 0 to 255, `c` 0 to `0xFFFFFF`. -/
def AsmLine.inRange : AsmLine → Bool
  | .init | .count | .render | .clear => true
  | .compose r g b => decide (r < 256) && decide (g < 256) && decide (b < 256)
  | .setrgb idx r g b | .setcolor idx r g b =>
    decide (idx < 65536) && decide (r < 256) && decide (g < 256) && decide (b < 256)
  | .setpacked idx c => decide (idx < 65536) && decide (c < 16777216)

/-- The command of a line whose operands are in range. `SETCOLOR` is `SETPACKED idx, c` with
`c = COMPOSE(r, g, b)` computed by the assembler (R87). -/
def AsmLine.command : AsmLine → Instr
  | .init => .init
  | .count => .count
  | .compose r g b => .compose (BitVec.ofNat 8 r) (BitVec.ofNat 8 g) (BitVec.ofNat 8 b)
  | .setrgb idx r g b =>
    .setrgb (BitVec.ofNat 16 idx) (BitVec.ofNat 8 r) (BitVec.ofNat 8 g) (BitVec.ofNat 8 b)
  | .setpacked idx c => .setpacked (BitVec.ofNat 16 idx) (BitVec.ofNat 24 c)
  | .render => .render
  | .clear => .clear
  | .setcolor idx r g b =>
    .setpacked (BitVec.ofNat 16 idx)
      ((wireWord (BitVec.ofNat 8 r) (BitVec.ofNat 8 g) (BitVec.ofNat 8 b)).extractLsb' 0 24)

/-- Assemble a line: "An operand outside its field's range is an assembly error" (R86). -/
def AsmLine.assemble (l : AsmLine) : Option CmdWord := if l.inRange then some (encode l.command) else none

/-! ## The text of a line -/

/-- The value of a decimal digit. -/
def decDigit (c : Char) : Option Nat := if c.isDigit then some (c.toNat - 48) else none

/-- The value of a hexadecimal digit in either case. -/
def hexDigit (c : Char) : Option Nat :=
  if c.isDigit then some (c.toNat - 48)
  else if 'a'.toNat ≤ c.toNat ∧ c.toNat ≤ 'f'.toNat then some (c.toNat - 87)
  else if 'A'.toNat ≤ c.toNat ∧ c.toNat ≤ 'F'.toNat then some (c.toNat - 55)
  else none

/-- Digits in a base, from the value read so far. -/
def readDigits (base : Nat) (digit : Char → Option Nat) : List Char → Nat → Option Nat
  | [], acc => some acc
  | c :: rest, acc =>
    match digit c with
    | some d => readDigits base digit rest (acc * base + d)
    | none => none

/-- A number in decimal or `0x` hexadecimal; at least one digit. -/
def readNumber : List Char → Option Nat
  | [] => none
  | ['0', 'x'] => none
  | '0' :: 'x' :: digits => readDigits 16 hexDigit digits 0
  | digits => readDigits 10 decDigit digits 0

/-- Drop spaces and tabs. -/
def dropBlanks (l : List Char) : List Char := l.filter fun c => !(c == ' ' || c == '\t')

/-- The text of a line before its comment. -/
def beforeComment (l : List Char) : List Char := l.takeWhile fun c => c != ';'

/-- The operands of a line: its text after the mnemonic, cut at commas. -/
def readOperands (l : List Char) : Option (List Nat) :=
  if (dropBlanks l).isEmpty then some []
  else (l.splitOnP (· == ',')).mapM fun operand =>
    readNumber ((operand.dropWhile fun c => c == ' ' || c == '\t').reverse.dropWhile
      fun c => c == ' ' || c == '\t').reverse

/-- A line from its mnemonic and operands: each syntax of R86, with its number of operands, and SETCOLOR of R87. -/
def lineOf (mnemonic : String) (operands : List Nat) : Option AsmLine :=
  match operands with
  | [] =>
    if mnemonic = "INIT" then some .init
    else if mnemonic = "COUNT" then some .count
    else if mnemonic = "RENDER" then some .render
    else if mnemonic = "CLEAR" then some .clear
    else none
  | [idx, c] => if mnemonic = "SETPACKED" then some (.setpacked idx c) else none
  | [r, g, b] => if mnemonic = "COMPOSE" then some (.compose r g b) else none
  | [idx, r, g, b] =>
    if mnemonic = "SETRGB" then some (.setrgb idx r g b)
    else if mnemonic = "SETCOLOR" then some (.setcolor idx r g b)
    else none
  | _ => none

/-- The words of a line of text: none for a blank line or a comment alone, one for a command, and no answer for
an assembly error. -/
def assembleText (text : List Char) : Option (List CmdWord) :=
  let body := (beforeComment text).dropWhile fun c => c == ' ' || c == '\t'
  if body.isEmpty then some []
  else
    let mnemonic := body.takeWhile fun c => c.isUpper
    let after := body.dropWhile fun c => c.isUpper
    let operands := if after.isEmpty || after.head? == some ' ' || after.head? == some '\t' then
      readOperands after else none
    match operands with
    | none => none
    | some ns =>
      match lineOf (String.ofList mnemonic) ns with
      | none => none
      | some l => (l.assemble).map fun w => [w]

end Sys2Proof.Machine
end

