-- ==== Sys2Proof/Certificates/Slice0/Obligations.lean ====
section
/-! DEFINITION. The statements about the block, each from the numbered rules of spec/ that its docstring names. -/

open Sys2Proof Sys2Proof.Machine

/-! ## Encodings (`30_encoding.md`) -/

/-- R71 to R78: decoding the encoded command gives the command back, as a word and as six bytes followed by any
others, for every value of every operand. -/
def Obligations.DecodeOfEncodeIsTheCommand : Prop :=
  ∀ (i : Instr) (rest : List Byte), i.wellFormed = true →
    decode (encode i) = .ok i ∧ decodeBytes (encodeBytes i ++ rest) = .ok (i, rest)

/-- R74: "a word `cw` selects the row when `cw & mask = match`": for every word and every row of the opcode map,
the word selects the row exactly when the decoder reads that row's command. -/
def Obligations.OpcodeMapSelectsTheDecodedCommand : Prop :=
  ∀ (w : CmdWord) (row : OpcodeRow), row ∈ opcodeTable →
    (row.selectedBy w = true ↔ ∃ i, decode w = .ok i ∧ i.mnemonic = row.mnemonic)

/-- R75: the decoder gives a word no command exactly when `op` is `0x00` or at least `0x08`, and an idle block
that is offered such a word is refused by that code. The refusal is the treatment R75 gives a model (D5; log entry 9). -/
def Obligations.ReservedOpcodeIsRefusedByName : Prop :=
  ∀ w : CmdWord,
    ((opField w = 0 ∨ 8 ≤ (opField w).toNat) ↔ decode w = .error (.reservedOpcode (opField w))) ∧
    ∀ (s : State) (rest : List CmdWord), s.rst = false → s.seq = .idle → s.cmds = w :: rest →
      (opField w = 0 ∨ 8 ≤ (opField w).toNat) → step s = .refused (.reservedOpcode (opField w))

/-- R76: an operation that does not use a field ignores it whatever it holds; the encoder writes zeros there; the
`op` byte alone selects the operation, and the decoder is total on the seven defined codes. -/
def Obligations.IgnoredFieldsHaveNoEffect : Prop :=
  (∀ w w' : CmdWord, opField w = opField w' →
    ((opField w).toNat = 1 ∨ (opField w).toNat = 2 ∨ (opField w).toNat = 6 ∨ (opField w).toNat = 7 →
      decode w = decode w') ∧
    ((opField w).toNat = 3 → packedField w = packedField w' → decode w = decode w') ∧
    (1 ≤ (opField w).toNat → (opField w).toNat ≤ 7 →
      ∃ i i', decode w = .ok i ∧ decode w' = .ok i' ∧ i.mnemonic = i'.mnemonic)) ∧
  (∀ i : Instr, i = .init ∨ i = .count ∨ i = .render ∨ i = .clear →
    idxField (encode i) = 0 ∧ packedField (encode i) = 0) ∧
  (∀ red green blue : Byte, idxField (encode (.compose red green blue)) = 0)

/-- R78: every operand is the unsigned value of its field of the word, and a channel operand reaches the stored
word with bit 7 forced to 1 and bits 6:0 kept. -/
def Obligations.OperandsAreUnsignedFieldsOfTheWord : Prop :=
  (∀ (w : CmdWord) (idx : Index) (red green blue : Byte), decode w = .ok (.setrgb idx red green blue) →
    idx.toNat = w.toNat / 2 ^ 24 % 2 ^ 16 ∧ red.toNat = w.toNat / 2 ^ 16 % 2 ^ 8 ∧
      green.toNat = w.toNat / 2 ^ 8 % 2 ^ 8 ∧ blue.toNat = w.toNat % 2 ^ 8) ∧
  (∀ (w : CmdWord) (red green blue : Byte), decode w = .ok (.compose red green blue) →
    red.toNat = w.toNat / 2 ^ 16 % 2 ^ 8 ∧ green.toNat = w.toNat / 2 ^ 8 % 2 ^ 8 ∧
      blue.toNat = w.toNat % 2 ^ 8) ∧
  (∀ (w : CmdWord) (idx : Index) (c : Packed), decode w = .ok (.setpacked idx c) →
    idx.toNat = w.toNat / 2 ^ 24 % 2 ^ 16 ∧ c.toNat = w.toNat % 2 ^ 24) ∧
  (∀ red green blue : Byte, (bytesOf (wireWord red green blue)).map (·.toNat) =
    [128 + green.toNat % 128, 128 + red.toNat % 128, 128 + blue.toNat % 128])

/-- Vectors V8 of `95_test_vectors.md`: words of every family read as the commands they stand for. -/
def Obligations.SampleWordsDecodeAsWritten : Prop :=
  decode 0x04000100FF00 = .ok (.setrgb 1 0x00 0xFF 0x00) ∧
  decode 0x050001123456 = .ok (.setpacked 1 0x123456) ∧
  decode 0x03ABCDC86432 = .ok (.compose 0xC8 0x64 0x32) ∧
  decode 0x06FFFFFFFFFF = .ok .render ∧
  decode 0x02123456789A = .ok .count ∧
  decode 0x010000000000 = .ok .init ∧
  decode 0x070000000000 = .ok .clear ∧
  decode 0x000000000000 = .error (.reservedOpcode 0x00) ∧
  decode 0x080000000000 = .error (.reservedOpcode 0x08) ∧
  decode 0xFF0000000000 = .error (.reservedOpcode 0xFF)

/-- R86, R87: a line assembles exactly when its operands are in range, to a word that decodes to the line's
command; and `SETCOLOR idx, r, g, b` assembles to a SETPACKED word with the effect of `SETRGB idx, r, g, b`. -/
def Obligations.AssembledLineDecodesToItsCommand : Prop :=
  (∀ l : AsmLine, (l.inRange = false → l.assemble = none) ∧
    (l.inRange = true → ∃ w, l.assemble = some w ∧ decode w = .ok l.command)) ∧
  (∀ (idx r g b : Nat) (s : State), (AsmLine.setcolor idx r g b).inRange = true →
    (∃ c, (AsmLine.setcolor idx r g b).command = .setpacked (BitVec.ofNat 16 idx) c) ∧
    exec (AsmLine.setcolor idx r g b).command s = exec (AsmLine.setrgb idx r g b).command s)

/-! ## Colours and the pixel buffer (`10_state.md`, `20_memory.md`, `40_pixel_buffer_ops.md`) -/

/-- R106: `MARK` forces bit 7 and keeps bits 6:0; numerically `128 + (v mod 128)`; it is idempotent and maps `v`
and `v + 128` to the same byte. -/
def Obligations.MarkForcesBitSevenAndKeepsTheRest : Prop :=
  ∀ v : Byte, (mark v).getLsbD 7 = true ∧ (∀ k < 7, (mark v).getLsbD k = v.getLsbD k) ∧
    (mark v).toNat = 128 + v.toNat % 128 ∧ mark (mark v) = mark v ∧ mark (v + 128) = mark v

/-- R102: SETRGB is read from `op = 0x04` and its fields; on an idle block it stores the word with bytes 0,
`green | 0x80`, `red | 0x80`, `blue | 0x80` at `idx` when `idx < N`, and does nothing otherwise; nothing else
changes, and `CONFIGURED` is not asked for. -/
def Obligations.SetrgbStoresTheMarkedWord : Prop :=
  (∀ w : CmdWord, (opField w).toNat = 4 →
    decode w = .ok (.setrgb (idxField w) (redField w) (greenField w) (blueField w))) ∧
  ∀ (s : State) (idx : Index) (red green blue : Byte), s.busy = false →
    ∃ t, exec (.setrgb idx red green blue) s = .next t ∧
      (s.params.n ≤ idx → t = s) ∧
      (idx < s.params.n →
        t = { s with pix := t.pix } ∧
        t.pix.read idx.toNat = some ((0 : Byte) ++ (green ||| 0x80) ++ (red ||| 0x80) ++ (blue ||| 0x80)) ∧
        ∀ k, k ≠ idx.toNat → t.pix.read k = s.pix.read k)

/-- R103: SETPACKED is read from `op = 0x05` and its fields; on an idle block it stores `zext_32(c | 0x808080)` at
`idx` when `idx < N`, the fields of `c` not swapped, and does nothing otherwise; nothing else changes. -/
def Obligations.SetpackedStoresTheMarkedOperand : Prop :=
  (∀ w : CmdWord, (opField w).toNat = 5 → decode w = .ok (.setpacked (idxField w) (packedField w))) ∧
  ∀ (s : State) (idx : Index) (c : Packed), s.busy = false →
    ∃ t, exec (.setpacked idx c) s = .next t ∧
      (s.params.n ≤ idx → t = s) ∧
      (idx < s.params.n →
        t = { s with pix := t.pix } ∧
        t.pix.read idx.toNat = some ((c ||| 0x808080).setWidth 32) ∧
        ∀ k, k ≠ idx.toNat → t.pix.read k = s.pix.read k)

/-- R104: COMPOSE is read from `op = 0x03` and its fields; on an idle block it returns the marked word of its three
operands through `RSP`, changes nothing else, and the word meets `v & 0xFF808080 = 0x00808080`. -/
def Obligations.ComposeReturnsTheMarkedWord : Prop :=
  (∀ w : CmdWord, (opField w).toNat = 3 →
    decode w = .ok (.compose (redField w) (greenField w) (blueField w))) ∧
  ∀ (s : State) (red green blue : Byte) (v : Word),
    v = (0 : Byte) ++ (green ||| 0x80) ++ (red ||| 0x80) ++ (blue ||| 0x80) →
    (v &&& 0xFF808080 = 0x00808080) ∧
    (s.busy = false → exec (.compose red green blue) s =
      .next { s with rsp := v, responses := s.responses ++ [v], rspValid := true })

/-- R105: COUNT is read from `op = 0x02`; on an idle block it returns `zext_32(N)` through `RSP` and changes
nothing else; `N` is the same after every step, so the answer is the same at every call. -/
def Obligations.CountReturnsThePixelCount : Prop :=
  (∀ w : CmdWord, (opField w).toNat = 2 → decode w = .ok .count) ∧
  ∀ s : State,
    (s.busy = false → exec .count s =
      .next { s with rsp := s.params.n.setWidth 32, responses := s.responses ++ [s.params.n.setWidth 32],
                     rspValid := true }) ∧
    ∀ t, step s = .next t → t.params.n = s.params.n

/-- R108: for all channels and every index, SETPACKED of the low 24 bits of COMPOSE's response leaves exactly the
state that SETRGB leaves: the marked word stored when `idx < N`, nothing otherwise. An inference the spec marks as its
own, and the source's third testable property (E3). -/
def Obligations.ComposeThenSetpackedEqualsSetrgb : Prop :=
  ∀ (s t u : State) (idx : Index) (red green blue : Byte), s.busy = false → u.busy = false →
    exec (.compose red green blue) s = .next t →
    ∃ v, exec (.setpacked idx (t.rsp.extractLsb' 0 24)) u = .next v ∧
      exec (.setrgb idx red green blue) u = .next v ∧
      (u.params.n ≤ idx → v = u) ∧
      (idx < u.params.n →
        v.pix.read idx.toNat = some (pack (green ||| 0x80) (red ||| 0x80) (blue ||| 0x80)) ∧
        ∀ k, k ≠ idx.toNat → v.pix.read k = u.pix.read k)

/-- R54: on an idle block a write with `idx >= N` does nothing at all, for both write operations, and completes
normally. The statement takes in busy states too, where no command is accepted (R171): that `exec` answers the same
state there is the model's choice (log entry 11), not R54's. -/
def Obligations.OutOfRangeWriteDoesNothing : Prop :=
  ∀ (s : State) (idx : Index) (red green blue : Byte) (c : Packed), s.params.n ≤ idx →
    exec (.setrgb idx red green blue) s = .next s ∧ exec (.setpacked idx c) s = .next s

/-- R25, R33, R100, R110: the frame of the four pixel buffer operations. The two stores change `PIX` alone, and of
`PIX` only the entry at `idx`; the two queries change `RSP`, the responses and `rsp_valid` alone. -/
def Obligations.PixelBufferOpsFrame : Prop :=
  (∀ (s t : State) (idx : Index) (i : Instr),
    (∃ red green blue, i = .setrgb idx red green blue) ∨ (∃ c, i = .setpacked idx c) → exec i s = .next t →
      t = { s with pix := t.pix } ∧ ∀ k, k ≠ idx.toNat → t.pix.read k = s.pix.read k) ∧
  (∀ (s t : State) (i : Instr), i = .count ∨ (∃ red green blue, i = .compose red green blue) →
    exec i s = .next t →
      t = { s with rsp := t.rsp, responses := t.responses, rspValid := t.rspValid })

/-- R161: the frame of accepting INIT, RENDER and CLEAR: only `SEQ` changes in the step that accepts, so every
pixel, response, event and flag is as before. -/
def Obligations.DriverOpsAcceptanceFrame : Prop :=
  ∀ (s t : State) (i : Instr), i = .init ∨ i = .render ∨ i = .clear → exec i s = .next t →
    t = { s with seq := t.seq }

/-- R109: after `SETRGB i, r, g, b` with `i < N` a RENDER that follows emits a frame whose triplet for pixel `i` is
`g|0x80, r|0x80, b|0x80`, and every other pixel's word is as before. -/
def Obligations.FrameShowsTheWrittenPixel : Prop :=
  ∀ (s t : State) (ws : List Word) (idx : Index) (red green blue : Byte),
    s.busy = false → s.holds ws → idx < s.params.n → exec (.setrgb idx red green blue) s = .next t →
    ∃ w, t.holds (ws.set idx.toNat w) ∧
      t.bigRender.out = t.out ++ emitBytes (frame t.params (ws.set idx.toNat w)) ++ [.delay t.params.settleMs] ∧
      ((frame t.params (ws.set idx.toNat w)).drop (4 + 3 * idx.toNat)).take 3 =
        [green ||| 0x80, red ||| 0x80, blue ||| 0x80]

/-- R22, R23: from any state whose `PIX` is canonical, bounded by `N` and marked, every step leaves such a `PIX`,
so a word read at any index satisfies `PIX[i] & 0xFF808080 = 0x00808080` and its index is below `N`; and reset's
`PIX` is such a one. The spec marks the invariant as its own inference from the write rules; the canonical form of the
list is the model's (log entry 1). -/
def Obligations.WrittenWordsKeepTheirMarkers : Prop :=
  (∀ p : Params, (State.construct p).PixOk) ∧
  ∀ s t : State, s.PixOk → step s = .next t →
    t.PixOk ∧ ∀ i w, t.pix.read i = some w → i < t.params.pixels ∧ w &&& 0xFF808080 = 0x00808080

/-- R25: out of reset, the content of an entry changes only by an accepted SETRGB or SETPACKED of that index below
`N`, or by the Clear cycle's step at that index, which leaves the zero colour `0x00808080`. -/
def Obligations.PixelsChangeOnlyByStoresAndClear : Prop :=
  ∀ (s t : State) (k : Nat), s.rst = false → step s = .next t → t.pix.read k ≠ s.pix.read k →
    k < s.params.pixels ∧
    ((s.seq = .clr k ∧ t.pix.read k = some 0x00808080) ∨
     (s.seq = .idle ∧ ∃ w rest, s.cmds = w :: rest ∧
       ((∃ idx red green blue, decode w = .ok (.setrgb idx red green blue) ∧ idx.toNat = k) ∨
        ∃ idx c, decode w = .ok (.setpacked idx c) ∧ idx.toNat = k)))

/-- R33, "No other operation writes it": a step out of reset that writes `RSP`, returns a response or pulses
`rsp_valid` is one that accepts COMPOSE, with the composed colour, or COUNT, with `zext_32(N)`. That these two do
write it is what `ComposeReturnsTheMarkedWord` and `CountReturnsThePixelCount` say. -/
def Obligations.OnlyComposeAndCountRespond : Prop :=
  ∀ s t : State, s.rst = false → step s = .next t →
    (t.rsp = s.rsp ∧ t.responses = s.responses ∧ t.rspValid = false) ∨
    (s.seq = .idle ∧ ∃ w rest, s.cmds = w :: rest ∧ t.responses = s.responses ++ [t.rsp] ∧ t.rspValid = true ∧
      ((decode w = .ok .count ∧ t.rsp = s.params.n.setWidth 32) ∨
       ∃ red green blue, decode w = .ok (.compose red green blue) ∧
         t.rsp = (0 : Byte) ++ (green ||| 0x80) ++ (red ||| 0x80) ++ (blue ||| 0x80)))

/-! ## The driver operations (`41_driver_ops.md`) -/

/-- R131, R142: INIT is read from `op = 0x01`, and the `Cfg` event comes from its `CFG` step alone. INIT accepted on a
block at rest, with both services answering in the clock after a call, keeps the block busy to the end of its
settle delay and then has issued the `Cfg` event, a frame whose payload bytes are all `0x80`, and one `Delay`;
every pixel is `0x00808080` whatever it held, and `CONFIGURED = 1`; no response. -/
def Obligations.InitConfiguresClearsAndRenders : Prop :=
  (∀ w : CmdWord, (opField w).toNat = 1 → decode w = .ok .init) ∧
  (∀ (s t : State) (role : BusRole) (mode : BitVec 2) (order : BitOrder) (rate : BitVec 32),
    step s = .next t → t.out = s.out ++ [.cfg role mode order rate] → s.seq = .cfg) ∧
  ∀ s : State, s.Resting → s.Prompt →
    ∃ t n, exec .init s = .next t ∧ (∀ k < n, ∃ v, Host.Core.run core k t = .next v ∧ v.busy = true) ∧
      ∃ u, Host.Core.run core n t = .next u ∧
        u.out = s.out ++ [.cfg .controller 0 .msbFirst s.params.clockRateHz] ++
          (List.replicate 4 (Event.tx 0) ++ List.replicate (3 * s.params.pixels) (Event.tx 0x80) ++
            List.replicate s.params.trailerLen (Event.tx 0)) ++ [.delay s.params.settleMs] ∧
        (∀ i < s.params.pixels, u.pix.read i = some 0x00808080) ∧
        (∀ i, s.params.pixels ≤ i → u.pix.read i = s.pix.read i) ∧
        u = { s with pix := u.pix, out := u.out, configured := true, strobe := none, rspValid := false }

/-- R132: RENDER is read from `op = 0x06`. RENDER accepted on a configured block at rest that holds the words `ws`,
with both services answering in the clock after a call, keeps the block busy to the end of its settle delay and
then has issued exactly four zero bytes, the bytes `w[23:16]`, `w[15:8]`, `w[7:0]` of every word in index order,
`TRAILER_LEN` zero bytes and one `Delay`; `PIX` and everything else are as before. -/
def Obligations.RenderSendsTheFrameOfTheBuffer : Prop :=
  (∀ w : CmdWord, (opField w).toNat = 6 → decode w = .ok .render) ∧
  ∀ (s : State) (ws : List Word), s.Resting → s.Prompt → s.configured = true → s.holds ws →
    ∃ t n, exec .render s = .next t ∧ (∀ k < n, ∃ v, Host.Core.run core k t = .next v ∧ v.busy = true) ∧
      Host.Core.run core n t = .next
        { s with
          out := s.out ++
            (List.replicate 4 (Event.tx 0) ++
              ws.flatMap (fun w => [.tx (w.extractLsb' 16 8), .tx (w.extractLsb' 8 8), .tx (w.extractLsb' 0 8)]) ++
              List.replicate s.params.trailerLen (Event.tx 0)) ++ [.delay s.params.settleMs],
          strobe := none, rspValid := false }

/-- R133: CLEAR is read from `op = 0x07`. CLEAR accepted on a configured block at rest, with both services answering in
the clock after a call, keeps the block busy to the end of its settle delay and then has set every pixel to
`0x00808080` and rendered once: four zero bytes, `3N` bytes `0x80`, `TRAILER_LEN` zero bytes, one `Delay`; nothing
else has changed. -/
def Obligations.ClearZeroesEveryPixelAndRenders : Prop :=
  (∀ w : CmdWord, (opField w).toNat = 7 → decode w = .ok .clear) ∧
  ∀ s : State, s.Resting → s.Prompt → s.configured = true →
    ∃ t n, exec .clear s = .next t ∧ (∀ k < n, ∃ v, Host.Core.run core k t = .next v ∧ v.busy = true) ∧
      ∃ u, Host.Core.run core n t = .next u ∧
        u.out = s.out ++
          (List.replicate 4 (Event.tx 0) ++ List.replicate (3 * s.params.pixels) (Event.tx 0x80) ++
            List.replicate s.params.trailerLen (Event.tx 0)) ++ [.delay s.params.settleMs] ∧
        (∀ i < s.params.pixels, u.pix.read i = some 0x00808080) ∧
        (∀ i, s.params.pixels ≤ i → u.pix.read i = s.pix.read i) ∧
        u = { s with pix := u.pix, out := u.out, strobe := none, rspValid := false }

/-- R136: RENDER and CLEAR on an idle block with `CONFIGURED = 0` are refused: no frame, no next state. The four
buffer operations, and INIT, have no such precondition: they complete. -/
def Obligations.RenderAndClearNeedConfigured : Prop :=
  ∀ s : State, s.busy = false → s.configured = false →
    exec .render s = .refused .notConfigured ∧ exec .clear s = .refused .notConfigured ∧
    ∀ i : Instr, i ≠ .render → i ≠ .clear → ∃ t, exec i s = .next t

/-- R173: for INIT, RENDER and CLEAR, running the sequencer from the accepted command to idle, with both services
answering in the clock after a call, gives exactly the state of the operation's one-transition rule, pixels never
written included. An inference the spec marks as its own; that the run takes `opClocks` clocks and that the free
values of both levels are drawn in the same order are the model's choices (log entries 3, 4 and 15). -/
def Obligations.SequencerAgreesWithTheBigStep : Prop :=
  ∀ (s t : State) (i : Instr), s.Resting → s.Prompt → i = .init ∨ i = .render ∨ i = .clear →
    exec i s = .next t → Host.Core.run core (opClocks s.params i) t = .next (s.endPulses.bigStep i)

/-- R173, R228: the same agreement whatever the environment does short of reset: however long each service takes
and whatever words the host offers meanwhile, when the sequencer of an accepted INIT, RENDER or CLEAR is first
idle again, all that a claim may observe (the trace, the responses, `PIX`) and `CONFIGURED` are those of the
one-transition rule, and `RSP` is as it was. An inference the spec marks as its own; the count of free values drawn
is the model's (log entry 4). -/
def Obligations.BigStepHoldsUnderAnyServiceDelay : Prop :=
  ∀ (s t u : State) (i : Instr) (es : List Inputs), s.Resting → i = .init ∨ i = .render ∨ i = .clear →
    exec i s = .next t → (∀ e ∈ es, e.rst = false) →
    (∀ m < es.length, ∃ v, runClocks (es.take m) t = .next v ∧ v.busy = true) →
    runClocks es t = .next u → u.seq = .idle →
    u.observed = (s.bigStep i).observed ∧ u.configured = (s.bigStep i).configured ∧ u.rsp = s.rsp ∧
      u.responses = s.responses ∧ u.draws = (s.bigStep i).draws ∧ u.params = s.params ∧ u.wait = false

/-- R134, R58: two RENDER words offered with no write between them: the same frame is sent twice, each time with
its own `Delay`, and `PIX`, `CONFIGURED` and `RSP` are what they were. An inference the spec marks as its own; how
many clocks it takes is the model's choice (log entries 3 and 15). -/
def Obligations.TwoRendersSendTheSameFrameTwice : Prop :=
  ∀ (s : State) (ws : List Word) (w w' : CmdWord), s.Resting → s.Prompt → s.configured = true → s.holds ws →
    s.cmds = [w, w'] → decode w = .ok .render → decode w' = .ok .render →
    ∃ t, Host.Core.run core (2 * (1 + opClocks s.params .render)) s = .next t ∧
      t.out = s.out ++ (emitBytes (frame s.params ws) ++ [.delay s.params.settleMs]) ++
        (emitBytes (frame s.params ws) ++ [.delay s.params.settleMs]) ∧
      t.pix = s.pix ∧ t.configured = s.configured ∧ t.rsp = s.rsp ∧ t.responses = s.responses ∧ t.ended = true

/-- R140: a RENDER of any buffer, never-written words included, as one transition: the count and the position of
the bytes are fixed. Four zero bytes, three bytes for each pixel in place, which are its stored bytes where it
holds a word and any bytes where it does not, `TRAILER_LEN` zero bytes, one `Delay`; every word is left as it was,
`UNDEF` included. -/
def Obligations.UndefinedWordsKeepTheFrameShape : Prop :=
  ∀ s : State, ∃ body : List Byte,
    body.length = 3 * s.params.pixels ∧
    s.bigRender.out = s.out ++ emitBytes (zeros 4 ++ body ++ zeros s.params.trailerLen) ++
      [.delay s.params.settleMs] ∧
    s.bigRender.pix = s.pix ∧
    ∀ i < s.params.pixels, ∀ w, s.pix.read i = some w → (body.drop (3 * i)).take 3 = bytesOf w

/-! ## The frame sequencer (`42_frame_sequencer.md`) -/

/-- R162: the step `CFG` issues the `Cfg` event, sets `CONFIGURED`, and goes to `CLR(0)` if `N > 0` else to
`HDR(0)`, in one clock. -/
def Obligations.CfgStepConfiguresTheTransport : Prop :=
  ∀ s : State, s.rst = false → s.seq = .cfg → s.wait = false →
    step s = .next
      { s with
        out := s.out ++ [.cfg .controller 0 .msbFirst s.params.clockRateHz],
        strobe := some (.cfg .controller 0 .msbFirst s.params.clockRateHz), rspValid := false,
        configured := true, seq := if 0 < s.params.pixels then .clr 0 else .hdr 0 }

/-- R163: the step `CLR(i)` writes `0x00808080` to `PIX[i]`, every other entry as it was, and goes to `CLR(i+1)`
if `i + 1 < N` else to `HDR(0)`, in one clock. -/
def Obligations.ClrStepWritesTheZeroColour : Prop :=
  ∀ (s : State) (i : Nat), s.rst = false → s.seq = .clr i → s.wait = false → i < s.params.pixels →
    ∃ t, step s = .next t ∧
      t = { s with
            pix := t.pix, strobe := none, rspValid := false,
            seq := if i + 1 < s.params.pixels then .clr (i + 1) else .hdr 0 } ∧
      t.pix.read i = some 0x00808080 ∧ ∀ k, k ≠ i → t.pix.read k = s.pix.read k

/-- R164, R169: the step `HDR(k)` hands over a zero byte and waits; on completion it goes to `HDR(k+1)` if
`k + 1 < 4`, else to `PAY(0,0)` if `N > 0`, else to `TRL(0)`. -/
def Obligations.HeaderStepSendsAZeroByte : Prop :=
  ∀ (s : State) (k : Nat), s.rst = false → s.seq = .hdr k →
    (s.wait = false → step s = .next
      { s with out := s.out ++ [.tx 0], strobe := some (.tx 0), rspValid := false, wait := true }) ∧
    (s.wait = true → s.txDone = true → step s = .next
      { s with
        strobe := none, rspValid := false, wait := false,
        seq := if k + 1 < 4 then .hdr (k + 1) else if 0 < s.params.pixels then .pay 0 .green else .trl 0 })

/-- R165: the step `PAY(i, j)` hands over byte `j` of pixel `i`, `w[23:16]`, `w[15:8]` or `w[7:0]` of a written
word `w`, one byte of unspecified value for a word never written; on completion it goes to `PAY(i, j+1)` if
`j < 2`, else to `PAY(i+1, 0)` if `i + 1 < N`, else to `TRL(0)`. -/
def Obligations.PayloadStepSendsOneStoredByte : Prop :=
  ∀ (s : State) (i : Nat) (j : Channel), s.rst = false → s.seq = .pay i j →
    (s.wait = false → ∃ (b : Byte) (d : Nat),
      (∀ w, s.pix.read i = some w → d = s.draws ∧
        b = match j with
          | .green => w.extractLsb' 16 8
          | .red => w.extractLsb' 8 8
          | .blue => w.extractLsb' 0 8) ∧
      step s = .next
        { s with out := s.out ++ [.tx b], strobe := some (.tx b), rspValid := false, wait := true,
                 draws := d }) ∧
    (s.wait = true → s.txDone = true → step s = .next
      { s with
        strobe := none, rspValid := false, wait := false,
        seq := match j with
          | .green => .pay i .red
          | .red => .pay i .blue
          | .blue => if i + 1 < s.params.pixels then .pay (i + 1) .green else .trl 0 })

/-- R166: the step `TRL(k)` hands over a zero byte and waits; on completion it goes to `TRL(k+1)` if
`k + 1 < TRAILER_LEN` else to `SETTLE`. -/
def Obligations.TrailerStepSendsAZeroByte : Prop :=
  ∀ (s : State) (k : Nat), s.rst = false → s.seq = .trl k →
    (s.wait = false → step s = .next
      { s with out := s.out ++ [.tx 0], strobe := some (.tx 0), rspValid := false, wait := true }) ∧
    (s.wait = true → s.txDone = true → step s = .next
      { s with
        strobe := none, rspValid := false, wait := false,
        seq := if k + 1 < s.params.trailerLen then .trl (k + 1) else .settle })

/-- R167, R170: the step `SETTLE` starts the delay of `SETTLE_MS` and waits; when the delay has completed,
`SEQ <- IDLE`. -/
def Obligations.SettleStepWaitsOutTheDelay : Prop :=
  ∀ s : State, s.rst = false → s.seq = .settle →
    (s.wait = false → step s = .next
      { s with out := s.out ++ [.delay s.params.settleMs], strobe := some (.delay s.params.settleMs),
               rspValid := false, wait := true }) ∧
    (s.wait = true → s.dlyDone = true → step s = .next
      { s with strobe := none, rspValid := false, wait := false, seq := .idle })

/-- R168, R28: `BUSY` goes from 0 to 1 only by accepting INIT, CLEAR or RENDER, and from 1 to 0 only by reset or
at the end of the settle delay; at that moment `cmd_ready` is 1 and nothing else happens: no response, no event,
no pixel written. -/
def Obligations.BusyStartsByACommandAndEndsAtSettle : Prop :=
  ∀ s t : State, step s = .next t →
    (s.busy = false → t.busy = true → s.rst = false ∧ ∃ w rest i, s.cmds = w :: rest ∧ decode w = .ok i ∧
      (i = .init ∨ i = .clear ∨ i = .render)) ∧
    (s.busy = true → t.busy = false → s.rst = true ∨
      (s.seq = .settle ∧ s.wait = true ∧ s.dlyDone = true ∧ t.outputs.cmdReady = true ∧ t.out = s.out ∧
        t.responses = s.responses ∧ t.rsp = s.rsp ∧ t.rspValid = false ∧ t.pix = s.pix))

/-- R171, R40: while `SEQ` is not `IDLE`, `cmd_ready = 0` and no command is accepted, whatever it is: the offered
words stay on the port and no response is returned. That `exec` on a busy block answers the same state is the model's
choice (log entry 11): no step executes a command there. -/
def Obligations.NoCommandIsAcceptedWhileBusy : Prop :=
  ∀ s : State, s.busy = true →
    s.outputs.cmdReady = false ∧ (∀ i, exec i s = .next s) ∧
    (s.rst = false → ∃ t, step s = .next t ∧ t.cmds = s.cmds ∧ t.rsp = s.rsp ∧ t.responses = s.responses ∧
      t.rspValid = false)

/-- R40, R66: the host's words leave the port one at a time from the front, each only when the block is idle and
out of reset. The list of the words still offered is the model's (log entries 8 and 14). -/
def Obligations.CommandWordsLeaveOnlyByAcceptance : Prop :=
  ∀ s t : State, step s = .next t →
    (s.cmds ≠ [] → s.rst = false → s.seq = .idle → t.cmds = s.cmds.tail) ∧
    (s.rst = true ∨ s.seq ≠ .idle → t.cmds = s.cmds)

/-- R169, R170, R182: once a call is outstanding, as long as its service does not signal and there is no reset,
however many clocks pass and whatever the host offers, the block stays where it is: the same position, `WAIT = 1`,
`BUSY = 1`, nothing issued, nothing written, no command accepted. Reset then ends the state. The list of the words
still offered is the model's (log entry 8). -/
def Obligations.SilentServiceLeavesTheBlockStuck : Prop :=
  ∀ (es : List Inputs) (s : State), s.wait = true → s.seq.isHandshake = true →
    (∀ e ∈ es, e.rst = false ∧ (if s.seq = .settle then e.dlyDone = false else e.txDone = false)) →
    ∃ t, runClocks es s = .next t ∧ t.seq = s.seq ∧ t.wait = true ∧ t.busy = true ∧ t.out = s.out ∧
      t.pix = s.pix ∧ t.configured = s.configured ∧ t.rsp = s.rsp ∧ t.responses = s.responses ∧
      t.cmds = s.cmds ++ es.flatMap (·.offered) ∧
      ∀ e : Inputs, e.rst = true → ∃ u, clock e t = .next u ∧ u.seq = .idle ∧ u.wait = false

/-- R172: one clock of the running sequencer either leaves its position or moves it one step nearer to `IDLE`; an
INIT takes `1 + N + 4 + 3N + TRAILER_LEN + 1` steps, a CLEAR `N + 4 + 3N + TRAILER_LEN + 1`, a RENDER
`4 + 3N + TRAILER_LEN + 1`. The counts are an inference the spec marks as its own. -/
def Obligations.EachSequencerStepComesOneNearer : Prop :=
  (∀ s t : State, s.params.wellFormed = true → s.SeqOk → s.rst = false → s.busy = true → step s = .next t →
    t.seq = s.seq ∨ Seq.stepsLeft s.params t.seq + 1 = Seq.stepsLeft s.params s.seq) ∧
  ∀ p : Params,
    Seq.stepsLeft p .cfg = 1 + p.pixels + 4 + 3 * p.pixels + p.trailerLen + 1 ∧
    Seq.stepsLeft p (Seq.clearStart p) = p.pixels + 4 + 3 * p.pixels + p.trailerLen + 1 ∧
    Seq.stepsLeft p (.hdr 0) = 4 + 3 * p.pixels + p.trailerLen + 1 ∧
    Seq.stepsLeft p .idle = 0

/-- R172, R228: from any position in range, with both services answering in the clock after a call and no further
command, the block is idle within twice the steps that are left. The clock count is the model's choice (log entries
3 and 15). -/
def Obligations.PromptServicesBringTheBlockToIdle : Prop :=
  ∀ s : State, s.params.wellFormed = true → s.SeqOk → s.rst = false → s.Prompt → s.cmds = [] →
    ∃ t, Host.Core.run core (2 * Seq.stepsLeft s.params s.seq) s = .next t ∧ t.ended = true

/-- R172: the path of an operation depends on no pixel value: two states alike in all but pixel words, responses
and trace stay alike in control after a step, and issue the same number of events. An inference the spec marks as
its own. -/
def Obligations.ControlDoesNotDependOnPixels : Prop :=
  ∀ s s' t : State, s.SameControl s' → step s = .next t →
    ∃ t', step s' = .next t' ∧ t.SameControl t' ∧
      t'.out.length - s'.out.length = t.out.length - s.out.length

/-! ## Whole-machine rules -/

/-- Every step keeps the invariant, and so does every clock of any environment: parameters in bounds (R10), `PIX`
canonical, bounded and marked (R22, R23), `SEQ` and `WAIT` in range (R26, R160), configured past `CFG` (R29),
every pixel written once configured (R142), the `Cfg` event first in the trace (R131). That every entry is written
once configured is an inference the spec marks as its own. -/
def Obligations.EveryStepKeepsTheInvariant : Prop :=
  (∀ s t : State, s.Inv → step s = .next t → t.Inv) ∧
  ∀ (s t : State) (e : Inputs), s.Inv → clock e s = .next t → t.Inv

/-- The invariant holds after reset, of `State.reset` and of every well-formed instance. -/
def Obligations.ResetMeetsTheInvariant : Prop :=
  State.reset.Inv ∧ ∀ p : Params, p.wellFormed = true → (State.construct p).Inv

/-- R140: in any run to which the model gives a meaning no `UNDEF` word is ever rendered: from a state that meets
the invariant a step out of reset draws no free value, and a payload byte is always one of a written word. An
inference the spec marks as its own; the count of free values drawn is the model's (log entry 4). -/
def Obligations.UndefinedWordIsNeverRendered : Prop :=
  ∀ s t : State, s.Inv → s.rst = false → step s = .next t →
    t.draws = s.draws ∧ ∀ i j, s.seq = .pay i j → ∃ w, s.pix.read i = some w

/-- R36, R160, R41, R42: `OUT` is append-only and a step appends at most one event, at the moment it hands the
call over: the pulse outputs of the clock show exactly that event, and none when there is none. -/
def Obligations.AStepIssuesAtMostOneEvent : Prop :=
  ∀ s t : State, step s = .next t →
    (t.out = s.out ∧ t.outputs.cfgValid = false ∧ t.outputs.txValid = false ∧ t.outputs.dlyStart = false) ∨
    (t.out = s.out ++ [cfgEvent s.params] ∧ t.outputs.cfgValid = true ∧ t.outputs.txValid = false ∧
      t.outputs.dlyStart = false) ∨
    (∃ b, t.out = s.out ++ [.tx b] ∧ t.outputs.cfgValid = false ∧ t.outputs.txValid = true ∧
      t.outputs.txData = some b ∧ t.outputs.dlyStart = false ∧ t.wait = true) ∨
    (t.out = s.out ++ [.delay s.params.settleMs] ∧ t.outputs.cfgValid = false ∧ t.outputs.txValid = false ∧
      t.outputs.dlyStart = true ∧ t.wait = true)

/-- R11: no parameter changes during operation, and INIT, the one operation that applies transport settings,
always applies the same constants: controller, mode 0, most-significant bit first, `CLOCK_RATE_HZ`. -/
def Obligations.ParametersNeverChange : Prop :=
  ∀ s t : State, step s = .next t →
    t.params = s.params ∧
    ∀ role mode order rate, t.out = s.out ++ [.cfg role mode order rate] →
      s.seq = .cfg ∧ role = .controller ∧ mode = 0 ∧ order = .msbFirst ∧ rate = s.params.clockRateHz

/-- R29: `CONFIGURED` is 0 after reset, set to 1 by the `CFG` step of INIT, cleared only by reset, and read by
RENDER and CLEAR as a precondition. -/
def Obligations.ConfiguredIsSetByInitAndClearedByReset : Prop :=
  (∀ p : Params, (State.construct p).configured = false) ∧
  (∀ s t : State, step s = .next t →
    (s.configured = false → t.configured = true → s.rst = false ∧ s.seq = .cfg) ∧
    (s.configured = true → t.configured = false → s.rst = true) ∧
    (s.rst = false → s.seq = .cfg → s.wait = false → t.configured = true) ∧
    (s.rst = true → t.configured = false)) ∧
  ∀ s : State, s.busy = false →
    ((∃ t, exec .render s = .next t) ↔ s.configured = true) ∧
    ((∃ t, exec .clear s = .next t) ↔ s.configured = true)

/-- R210, R211, R212, R185: reset in any state wins over everything: every pixel `UNDEF`, `CONFIGURED = 0`,
`SEQ = IDLE`, `BUSY = 0`, `WAIT = 0`, the pulse outputs 0, the parameters and the events already in `OUT` kept, no
event issued, no command accepted. The value of `RSP` is left open. That the words the host offers stay offered is the
model's choice (log entry 14). -/
def Obligations.ResetWinsInEveryState : Prop :=
  ∀ s : State, s.rst = true →
    ∃ t, step s = .next t ∧ (∀ i, t.pix.read i = none) ∧ t.configured = false ∧ t.seq = .idle ∧ t.wait = false ∧
      t.outputs.busy = false ∧ t.outputs.cfgValid = false ∧ t.outputs.txValid = false ∧
      t.outputs.dlyStart = false ∧ t.outputs.rspValid = false ∧ t.params = s.params ∧ t.out = s.out ∧
      t.cmds = s.cmds

/-- R44, R101: the state after the reset that begins a run of any instance: every pixel `UNDEF`, `CONFIGURED = 0`,
`SEQ = IDLE`, `WAIT = 0`, `BUSY = 0`, `OUT` empty, the pulse outputs 0, the parameters the instance's; and
`State.reset` is such a state. That the list of responses begins empty is the model's (log entry 12). -/
def Obligations.ConstructLeavesTheResetState : Prop :=
  State.reset = State.construct Config.params ∧
  ∀ p : Params, ∀ s : State, s = State.construct p →
    s.params = p ∧ (∀ i, s.pix.read i = none) ∧ s.configured = false ∧ s.seq = .idle ∧ s.wait = false ∧
      s.outputs.busy = false ∧ s.out = [] ∧ s.responses = [] ∧ s.outputs.cfgValid = false ∧
      s.outputs.txValid = false ∧ s.outputs.dlyStart = false ∧ s.outputs.rspValid = false

/-- R40, R161: a step of an idle block out of reset that is offered a word which decodes to a command is that
command's execution on the state with the word taken off the port and the last clock's pulses ended; and the word
that `withFetchWord` offers is the one the very next step executes so. The list of offered words and `withFetchWord`
are the model's (log entries 8 and 21). -/
def Obligations.StepExecutesTheOfferedCommand : Prop :=
  (∀ (s : State) (w : CmdWord) (rest : List CmdWord) (i : Instr), s.rst = false → s.seq = .idle →
    s.cmds = w :: rest → decode w = .ok i → i.wellFormed = true →
    step s = exec i { s with cmds := rest, strobe := none, rspValid := false }) ∧
  ∀ (s : State) (nbits w : Nat) (i : Instr), decodeTableWord nbits w = some i →
    step (s.withFetchWord nbits w) =
      exec i { s with rst := false, seq := .idle, wait := false, strobe := none, rspValid := false }

/-! ## The wire (`30_encoding.md`) -/

/-- R82: every payload byte of written pixels has bit 7 set and every header and trailer byte is `0x00`; so the
payload is exactly the maximal run of bytes with bit 7 set, the frame is cut into its three parts without knowing
`N`, and `N` is the number of bytes with bit 7 set, over three. An inference the spec marks as its own. -/
def Obligations.FrameIsCutWithoutKnowingN : Prop :=
  ∀ (p : Params) (ws : List Word), (∀ w ∈ ws, marked w = true) →
    (∀ b ∈ ws.flatMap bytesOf, 0x80 ≤ b.toNat) ∧
    frame p ws = zeros 4 ++ ws.flatMap bytesOf ++ zeros p.trailerLen ∧
    cutFrame (frame p ws) = (zeros 4, ws.flatMap bytesOf, zeros p.trailerLen) ∧
    pixelCountOfFrame (frame p ws) = ws.length

/-- R81, R82: the frame determines the buffer: two buffers of written words with the same frame are equal. -/
def Obligations.FrameDeterminesTheBuffer : Prop :=
  ∀ (p : Params) (ws vs : List Word), (∀ w ∈ ws, marked w = true) → (∀ v ∈ vs, marked v = true) →
    frame p ws = frame p vs → ws = vs

/-- R83, R135: a frame is `4 + 3N + TRAILER_LEN` bytes, the default's `4 + 3L + 4`; with `N = 0` it is
`4 + TRAILER_LEN` zero bytes. -/
def Obligations.FrameLengthFormula : Prop :=
  ∀ (p : Params) (ws : List Word), ws.length = p.pixels →
    (frame p ws).length = frameLength p ∧ frameLength p = 4 + 3 * p.pixels + p.trailerLen ∧
    (p.trailerLen = 4 → (frame p ws).length = 4 + 3 * ws.length + 4) ∧
    (p.pixels = 0 → frame p ws = List.replicate (4 + p.trailerLen) 0)

/-- R84: the bit stream of a byte list is eight bits per byte, most significant first, nothing added: bit `k` of
the stream is bit `7 - k mod 8` of byte `k / 8`; a frame is `8 * (HEADER_LEN + 3N + TRAILER_LEN)` bits. An inference
the spec marks as its own. -/
def Obligations.BitStreamIsMostSignificantFirst : Prop :=
  (∀ l : List Byte, (bitStream l).length = 8 * l.length ∧
    ∀ k (h : k / 8 < l.length), (bitStream l)[k]? = some ((l[k / 8]).getLsbD (7 - k % 8))) ∧
  ∀ (p : Params) (ws : List Word), ws.length = p.pixels →
    (bitStream (frame p ws)).length = 8 * (Config.headerLen + 3 * p.pixels + p.trailerLen)

/-- R80, R63: one render cycle puts exactly one frame on the wire: the bytes handed to the transport grow by the
frame of the buffer, and the trace by one `Delay` after them. -/
def Obligations.RenderCyclePutsOneFrameOnTheWire : Prop :=
  ∀ (s : State) (ws : List Word), s.holds ws →
    wireBytes (s.bigStep .render).out = wireBytes s.out ++ frame s.params ws ∧
    (s.bigStep .render).out.getLast? = some (.delay s.params.settleMs) ∧
    (s.bigStep .render).out.length = s.out.length + frameLength s.params + 1
end

