-- ==== Sys2Proof/Tests/Slice0.lean ====
section
/-! SUPPORT. Tests: the checks of WellFormed, words written out from rule R74's encodings, the vectors of
`95_test_vectors.md` one step at a time, and for every statement with hypotheses a witness that meets them.
Every expected value is the spec's or worked out by hand from its rules; none was taken from the model. -/

namespace Sys2Proof.Tests

open Sys2Proof.Machine

/-! ## States to test on -/

/-- Three pixels, the default trailer and suggested settle pause, and any clock rate. -/
def three : Params := ⟨3, 4, 3, 1000000⟩

/-- No pixel at all (R139). -/
def empty : Params := ⟨0, 4, 1, 0⟩

/-- The three primaries of E6 in the buffer. -/
def primaries : List Word := [0x0080FF80, 0x00FF8080, 0x008080FF]

/-- A block right after reset. -/
def fresh : State := State.construct three

/-- A configured block at rest that holds the primaries. -/
def ready : State :=
  { fresh with
    pix := [(0, 0x0080FF80), (1, 0x00FF8080), (2, 0x008080FF)], configured := true, out := [cfgEvent three] }

/-- A configured block at rest without pixels. -/
def readyEmpty : State := { State.construct empty with configured := true, out := [cfgEvent empty] }

/-- The configured block with the sequencer at a position. -/
def at_ (q : Seq) (wait : Bool) : State := { ready with seq := q, wait := wait }

/-- The pixel read in the state an outcome answers. -/
def pixelAfter (o : Host.Outcome State Fault Refusal) (i : Nat) : Option Word :=
  match o with
  | .next t => t.pix.read i
  | .fault r => nomatch r
  | .refused _ => none

/-! ## WellFormed: an ill-formed term for each check -/

theorem test_params_ok : three.wellFormed = true := by decide

theorem test_trailer_of_three_is_refused : Params.wellFormed ⟨3, 3, 3, 0⟩ = false := by decide

theorem test_settle_of_zero_is_refused : Params.wellFormed ⟨3, 4, 0, 0⟩ = false := by decide

theorem test_instr_operands_at_their_bounds :
    (Instr.setrgb 0xFFFF 255 255 255).wellFormed = true ∧ (Instr.setpacked 0 0xFFFFFF).wellFormed = true := by decide

theorem test_asm_index_out_of_range : (AsmLine.setrgb 65536 0 0 0).assemble = none := by decide

theorem test_asm_channel_out_of_range :
    (AsmLine.compose 256 0 0).assemble = none ∧ (AsmLine.compose 0 256 0).assemble = none ∧
      (AsmLine.compose 0 0 256).assemble = none := by decide

theorem test_asm_packed_out_of_range : (AsmLine.setpacked 0 0x1000000).assemble = none := by decide

/-! ## Decoding: words from R74, fields from R71 to R73 -/

theorem test_decode_init : decode 0x010000000000 = .ok .init := by rfl

theorem test_decode_count_ignores_fields : decode 0x02123456789A = .ok .count := by rfl

theorem test_decode_compose_ignores_index : decode 0x03ABCDC86432 = .ok (.compose 200 100 50) := by rfl

theorem test_decode_setrgb : decode 0x04000100FF00 = .ok (.setrgb 1 0 255 0) := by rfl

theorem test_decode_setpacked : decode 0x050001123456 = .ok (.setpacked 1 0x123456) := by rfl

theorem test_decode_render_ignores_fields : decode 0x06FFFFFFFFFF = .ok .render := by rfl

theorem test_decode_clear : decode 0x070000000000 = .ok .clear := by rfl

theorem test_decode_reserved : decode 0x000000000000 = .error (.reservedOpcode 0) ∧
    decode 0x080000000000 = .error (.reservedOpcode 8) ∧ decode 0xFF0000000000 = .error (.reservedOpcode 255) :=
  ⟨rfl, rfl, rfl⟩

/-- R71: as six bytes, most significant first. -/
theorem test_decode_bytes :
    decodeBytes [0x04, 0x00, 0x01, 0xC8, 0x64, 0x32, 0x99] = .ok (.setrgb 1 200 100 50, [0x99]) := by rfl

theorem test_decode_five_bytes : decodeBytes [0x04, 0x00, 0x01, 0xC8, 0x64] = .error (.truncated 5) := by rfl

theorem test_decode_table_word : decodeTableWord 48 0x040000010203 = some (.setrgb 0 1 2 3) := by rfl

/-- The words of V2, V3, V6 as an assembler writes them. -/
theorem test_encode_words :
    encode (.setrgb 1 200 100 50) = 0x040001C86432 ∧ encode (.setpacked 0 0xE4C8B2) = 0x050000E4C8B2 ∧
      encode (.compose 1 2 3) = 0x030000010203 ∧ encode .init = 0x010000000000 := by decide

/-! ## Assembler text (R86, R87) -/

theorem test_asm_setrgb_hex : assembleText "SETRGB 0, 0x12, 0x34, 0x56 ; V2".toList = some [0x040000123456] := by
  decide

theorem test_asm_setcolor : assembleText "SETCOLOR 0, 200, 100, 50".toList = some [0x050000E4C8B2] := by decide

theorem test_asm_comment_only : assembleText "; nothing".toList = some [] := by decide

/-! ## The pixel buffer operations (V2 to V4) -/

/-- V2: green first, then red, then blue. -/
theorem test_setrgb_reorders : pixelAfter (exec (.setrgb 0 0x12 0x34 0x56) fresh) 0 = some 0x00B492D6 := by decide

/-- V2: 128 and 129 alias 0 and 1. -/
theorem test_setrgb_masks : pixelAfter (exec (.setrgb 2 128 127 255) fresh) 2 = some 0x00FF80FF := by decide

/-- V3.2: the reading of conflict C1 that the spec takes. -/
theorem test_setpacked_does_not_swap : pixelAfter (exec (.setpacked 1 0x123456) fresh) 1 = some 0x0092B4D6 := by
  decide

/-- V4: index `N` is ignored. -/
theorem test_setpacked_index_n : exec (.setpacked 3 0xFFFFFF) ready = .next ready := by rfl

/-- V3.1. -/
theorem test_compose : (match exec (.compose 200 100 50) fresh with
    | .next t => (t.rsp, t.responses, t.rspValid)
    | _ => (0, [], false)) = (0x00E4C8B2, [0x00E4C8B2], true) := by decide

/-- V6: COUNT with three pixels. -/
theorem test_count : (match exec .count fresh with
    | .next t => t.responses
    | _ => []) = [3] := by decide

/-! ## The driver operations and the sequencer (V5, V6, V7, V9) -/

theorem test_init_enters_at_cfg : exec .init fresh = .next { fresh with seq := .cfg } := by rfl

theorem test_render_before_init : exec .render fresh = .refused .notConfigured := by rfl

theorem test_render_enters_at_hdr : exec .render ready = .next { ready with seq := .hdr 0 } := by rfl

theorem test_clear_before_init : exec .clear fresh = .refused .notConfigured := by rfl

theorem test_clear_without_pixels : exec .clear readyEmpty = .next { readyEmpty with seq := .hdr 0 } := by rfl

/-- V9 step 6: red of pixel 0, after green. -/
theorem test_pay_red : step (at_ (.pay 0 .red) false) =
    .next { at_ (.pay 0 .red) true with out := [cfgEvent three, .tx 0xFF], strobe := some (.tx 0xFF) } := by rfl

/-- V9 step 7: after the last byte of the last pixel comes the trailer. -/
theorem test_pay_ends : step (at_ (.pay 2 .blue) true) = .next (at_ (.trl 0) false) := by rfl

/-- E6: the 17 bytes. -/
theorem test_frame_of_primaries : frame three primaries =
    [0x00, 0x00, 0x00, 0x00, 0x80, 0xFF, 0x80, 0xFF, 0x80, 0x80, 0x80, 0x80, 0xFF, 0x00, 0x00, 0x00, 0x00] := by
  decide

/-- V7. -/
theorem test_bits_of_b4 : bitStream [0xB4] = [true, false, true, true, false, true, false, false] := by decide

/-- R140 and V5's corner: three bytes in place whatever an unwritten pixel sends. -/
theorem test_undef_frame_length :
    ({ State.construct ⟨1, 4, 3, 0⟩ with configured := true }).bigRender.out.length = 12 := by rfl

theorem test_reset_state : State.reset.seq = .idle ∧ State.reset.configured = false ∧ State.reset.out = [] :=
  ⟨rfl, rfl, rfl⟩

/-- The very next step runs the offered word. -/
theorem test_fetch_word : step (State.reset.withFetchWord 48 0x010000000000) =
    .next { State.reset with seq := .cfg } := by rfl

/-! ## Witnesses: the hypotheses of each statement, met together -/

theorem ready_resting : ready.Resting := ⟨by decide, rfl, rfl, rfl⟩

theorem readyEmpty_resting : readyEmpty.Resting := ⟨by decide, rfl, rfl, rfl⟩

theorem fresh_resting : fresh.Resting := ⟨by decide, rfl, rfl, rfl⟩

theorem ready_prompt : ready.Prompt := ⟨rfl, rfl⟩

theorem ready_holds : ready.holds primaries := ⟨rfl, by decide⟩

theorem readyEmpty_holds : readyEmpty.holds [] := ⟨rfl, by decide⟩

theorem ready_pixOk : ready.PixOk := ⟨by decide, by decide, by decide⟩

theorem ready_written : ∀ i < 3, (ready.pix.read i).isSome = true := by decide

theorem ready_lifeOk (q : Seq) (h : q.written three = 3) (wait : Bool) : (at_ q wait).LifeOk :=
  ⟨fun _ => rfl, fun _ => by
    show ∀ i < q.written three, (ready.pix.read i).isSome = true
    rw [h]; exact ready_written, fun e he => by cases he; rfl, fun _ => by simp [at_, ready]⟩

theorem ready_inv : ready.Inv :=
  ⟨by decide, ready_pixOk, ⟨True.intro, by decide⟩, ready_lifeOk .idle rfl false⟩

theorem paying_inv : (at_ (.pay 2 .blue) false).Inv :=
  ⟨by decide, ⟨ready_pixOk.canonical, ready_pixOk.bounded, ready_pixOk.markers⟩,
    ⟨(by decide : 2 < 3), by decide⟩, ready_lifeOk (.pay 2 .blue) rfl false⟩

/-- DecodeOfEncodeIsTheCommand. -/
theorem witness_wellFormed : (Instr.setrgb 0xFFFF 255 0 128).wellFormed = true := by decide

/-- OpcodeMapSelectsTheDecodedCommand: the first and last rows, each selected and not selected. -/
theorem witness_opcode_rows :
    (⟨"INIT", 0x010000000000, 0xFF0000000000⟩ : OpcodeRow) ∈ opcodeTable ∧
    (⟨"CLEAR", 0x070000000000, 0xFF0000000000⟩ : OpcodeRow) ∈ opcodeTable ∧
    OpcodeRow.selectedBy ⟨"CLEAR", 0x070000000000, 0xFF0000000000⟩ 0x07FFFFFFFFFF = true ∧
    OpcodeRow.selectedBy ⟨"CLEAR", 0x070000000000, 0xFF0000000000⟩ 0x06FFFFFFFFFF = false := by decide

/-- ReservedOpcodeIsRefusedByName, at both ends of the reserved range and at its neighbours. -/
theorem witness_reserved :
    opField 0x000000000000 = 0 ∧ 8 ≤ (opField 0x080000000000).toNat ∧ 8 ≤ (opField 0xFF0000000000).toNat ∧
    ¬(8 ≤ (opField 0x070000000000).toNat) ∧
    ({ fresh with cmds := [0x080000000000] } : State).rst = false ∧
    ({ fresh with cmds := [0x080000000000] } : State).seq = .idle := by decide

/-- IgnoredFieldsHaveNoEffect, one pair of words for each clause. -/
theorem witness_ignored_fields :
    opField 0x06FFFFFFFFFF = opField 0x060000000000 ∧ (opField 0x06FFFFFFFFFF).toNat = 6 ∧
    opField 0x03ABCDC86432 = opField 0x030000C86432 ∧ (opField 0x03ABCDC86432).toNat = 3 ∧
    packedField 0x03ABCDC86432 = packedField 0x030000C86432 ∧ 1 ≤ (opField 0x010000000000).toNat ∧
    (opField 0x070000000000).toNat ≤ 7 := by decide

/-- OperandsAreUnsignedFieldsOfTheWord, every field at its top value. -/
theorem witness_operands :
    decode 0x04FFFFFFFFFF = .ok (.setrgb 0xFFFF 0xFF 0xFF 0xFF) ∧
    decode 0x030000FFFFFF = .ok (.compose 0xFF 0xFF 0xFF) ∧
    decode 0x05FFFFFFFFFF = .ok (.setpacked 0xFFFF 0xFFFFFF) := ⟨rfl, rfl, rfl⟩

/-- AssembledLineDecodesToItsCommand, both sides of a range. -/
theorem witness_assembled :
    (AsmLine.setcolor 65535 255 255 255).inRange = true ∧ (AsmLine.setcolor 65536 255 255 255).inRange = false ∧
    (AsmLine.setpacked 0 0xFFFFFF).inRange = true := by decide

/-- SetrgbStoresTheMarkedWord, SetpackedStoresTheMarkedOperand, ComposeReturnsTheMarkedWord,
CountReturnsThePixelCount, OutOfRangeWriteDoesNothing: the codes, an idle block, and the index at `N - 1`
and at `N`. -/
theorem witness_stores :
    (opField 0x040000010203).toNat = 4 ∧ (opField 0x050000010203).toNat = 5 ∧
    (opField 0x030000010203).toNat = 3 ∧ (opField 0x020000000000).toNat = 2 ∧ ready.busy = false ∧
    (2 : Index) < ready.params.n ∧ ready.params.n ≤ (3 : Index) ∧ ready.params.n ≤ (0xFFFF : Index) ∧
    readyEmpty.params.n ≤ (0 : Index) ∧
    (0x00E4C8B2 : Word) = (0 : Byte) ++ ((100 : Byte) ||| 0x80) ++ ((200 : Byte) ||| 0x80) ++
      ((50 : Byte) ||| 0x80) := by decide

/-- CountReturnsThePixelCount's second clause: a step that answers a next state. -/
theorem witness_a_step : step ready = .next ready := by rfl

/-- ComposeThenSetpackedEqualsSetrgb. -/
theorem witness_compose_then : fresh.busy = false ∧ ready.busy = false ∧
    exec (.compose 200 100 50) fresh = .next (fresh.respond 0x00E4C8B2) ∧ (2 : Index) < ready.params.n ∧
    ready.params.n ≤ (3 : Index) := ⟨by decide, by decide, rfl, by decide, by decide⟩

/-- PixelBufferOpsFrame and DriverOpsAcceptanceFrame: each command answers a next state. -/
theorem witness_frames :
    (∃ t, exec (.setrgb 2 1 2 3) ready = .next t) ∧ (∃ t, exec (.setpacked 2 0x010203) ready = .next t) ∧
    (∃ t, exec .count ready = .next t) ∧ (∃ t, exec (.compose 1 2 3) ready = .next t) ∧
    (∃ t, exec .init ready = .next t) ∧ (∃ t, exec .render ready = .next t) ∧ ∃ t, exec .clear ready = .next t :=
  ⟨⟨_, rfl⟩, ⟨_, rfl⟩, ⟨_, rfl⟩, ⟨_, rfl⟩, ⟨_, rfl⟩, ⟨_, rfl⟩, ⟨_, rfl⟩⟩

/-- FrameShowsTheWrittenPixel, at the last index. -/
theorem witness_frame_shows : ready.busy = false ∧ ready.holds primaries ∧ (2 : Index) < ready.params.n ∧
    ∃ t, exec (.setrgb 2 1 2 3) ready = .next t := ⟨by decide, ready_holds, by decide, _, rfl⟩

/-- WrittenWordsKeepTheirMarkers. -/
theorem witness_written_words : ready.PixOk ∧ step ready = .next ready ∧ ready.pix.read 2 = some 0x008080FF :=
  ⟨ready_pixOk, rfl, by decide⟩

/-- PixelsChangeOnlyByStoresAndClear: a step that changes an entry, by a store and by the Clear cycle. -/
theorem witness_pixels_change :
    (∃ t, step { ready with cmds := [0x040002010203] } = .next t ∧ t.pix.read 2 ≠ ready.pix.read 2) ∧
    (∃ t, step { ready with cmds := [0x050000123456] } = .next t ∧ t.pix.read 0 ≠ ready.pix.read 0) ∧
    ∃ t, step (at_ (.clr 2) false) = .next t ∧ t.pix.read 2 ≠ ready.pix.read 2 :=
  ⟨⟨_, rfl, by decide⟩, ⟨_, rfl, by decide⟩, _, rfl, by decide⟩

/-- OnlyComposeAndCountRespond: a step of each kind. -/
theorem witness_respond :
    ready.rst = false ∧ step ready = .next ready ∧
    (∃ t, step { ready with cmds := [0x020000000000] } = .next t ∧ t.rspValid = true) ∧
    ∃ t, step { ready with cmds := [0x030000C86432] } = .next t ∧ t.rsp = 0x00E4C8B2 :=
  ⟨rfl, rfl, ⟨_, rfl, rfl⟩, _, rfl, by decide⟩

/-- InitConfiguresClearsAndRenders: the code, the step that issues `Cfg`, and a block at rest, with three pixels
and with none. -/
theorem witness_init : (opField 0x010000000000).toNat = 1 ∧ fresh.Resting ∧ fresh.Prompt ∧
    (State.construct empty).Resting ∧ (State.construct empty).Prompt ∧
    ∃ t, step { fresh with seq := .cfg } = .next t ∧
      t.out = fresh.out ++ [.cfg .controller 0 .msbFirst 1000000] :=
  ⟨by decide, fresh_resting, ⟨rfl, rfl⟩, ⟨by decide, rfl, rfl, rfl⟩, ⟨rfl, rfl⟩, _, rfl, rfl⟩

/-- RenderSendsTheFrameOfTheBuffer and ClearZeroesEveryPixelAndRenders, with three pixels and with none. -/
theorem witness_render :
    (opField 0x060000000000).toNat = 6 ∧ (opField 0x070000000000).toNat = 7 ∧
    ready.Resting ∧ ready.Prompt ∧ ready.configured = true ∧ ready.holds primaries ∧
    readyEmpty.Resting ∧ readyEmpty.Prompt ∧ readyEmpty.configured = true ∧ readyEmpty.holds [] :=
  ⟨by decide, by decide, ready_resting, ready_prompt, rfl, ready_holds, readyEmpty_resting, ⟨rfl, rfl⟩, rfl,
    readyEmpty_holds⟩

/-- RenderAndClearNeedConfigured. -/
theorem witness_not_configured : fresh.busy = false ∧ fresh.configured = false ∧
    Instr.init ≠ .render ∧ Instr.init ≠ .clear := by decide

/-- SequencerAgreesWithTheBigStep, for each of the three operations, on a buffer never written too. -/
theorem witness_agrees :
    ready.Resting ∧ ready.Prompt ∧ (∃ t, exec .init ready = .next t) ∧ (∃ t, exec .render ready = .next t) ∧
    (∃ t, exec .clear ready = .next t) ∧
    ({ fresh with configured := true } : State).Resting ∧
    ∃ t, exec .render { fresh with configured := true } = .next t :=
  ⟨ready_resting, ready_prompt, ⟨_, rfl⟩, ⟨_, rfl⟩, ⟨_, rfl⟩, ⟨by decide, rfl, rfl, rfl⟩, _, rfl⟩

/-- Inputs with both services answering and no new word. -/
def answering : Inputs := ⟨false, true, true, []⟩

/-- Inputs with no service answering while the host offers a COUNT. -/
def silent : Inputs := ⟨false, false, false, [0x020000000000]⟩

/-- A render cycle without pixels whose first byte takes one clock longer: 1 silent and 18 answering clocks. -/
def slowClocks : List Inputs := answering :: silent :: List.replicate 17 answering

/-- Whether an outcome is a next state that is busy. -/
def busyNext (o : Host.Outcome State Fault Refusal) : Bool :=
  match o with
  | .next v => v.busy
  | .fault _ => false
  | .refused _ => false

theorem busyNext_spec {o : Host.Outcome State Fault Refusal} (h : busyNext o = true) :
    ∃ v, o = .next v ∧ v.busy = true := by
  cases o with
  | next v => exact ⟨v, rfl, h⟩
  | fault r => exact nomatch r
  | refused r => cases h

/-- BigStepHoldsUnderAnyServiceDelay. -/
theorem witness_any_delay :
    readyEmpty.Resting ∧ exec .render readyEmpty = .next (readyEmpty.goto (.hdr 0)) ∧
    (∀ e ∈ slowClocks, e.rst = false) ∧
    (∀ m < slowClocks.length, ∃ v, runClocks (slowClocks.take m) (readyEmpty.goto (.hdr 0)) = .next v ∧
      v.busy = true) ∧
    ∃ u, runClocks slowClocks (readyEmpty.goto (.hdr 0)) = .next u ∧ u.seq = .idle :=
  ⟨readyEmpty_resting, rfl, by decide,
    fun m hm => busyNext_spec ((by decide : ∀ m < slowClocks.length,
      busyNext (runClocks (slowClocks.take m) (readyEmpty.goto (.hdr 0))) = true) m hm), _, rfl, by decide⟩

/-- TwoRendersSendTheSameFrameTwice. -/
theorem witness_two_renders :
    ({ ready with cmds := [0x060000000000, 0x06FFFFFFFFFF] } : State).Resting ∧
    ({ ready with cmds := [0x060000000000, 0x06FFFFFFFFFF] } : State).Prompt ∧
    ({ ready with cmds := [0x060000000000, 0x06FFFFFFFFFF] } : State).holds primaries ∧
    decode 0x060000000000 = .ok .render ∧ decode 0x06FFFFFFFFFF = .ok .render :=
  ⟨⟨by decide, rfl, rfl, rfl⟩, ⟨rfl, rfl⟩, ready_holds, rfl, rfl⟩

/-- UndefinedWordsKeepTheFrameShape: a buffer with a written word at its last index and two words never
written. -/
theorem witness_partly_written : 2 < ({ fresh with pix := [(2, 0x008080FF)] } : State).params.pixels ∧
    ({ fresh with pix := [(2, 0x008080FF)] } : State).pix.read 2 = some 0x008080FF ∧
    ({ fresh with pix := [(2, 0x008080FF)] } : State).pix.read 1 = none := by decide

/-- CfgStepConfiguresTheTransport and ClrStepWritesTheZeroColour, at the first and last index. -/
theorem witness_cfg_clr :
    (at_ .cfg false).rst = false ∧ (at_ .cfg false).seq = .cfg ∧ (at_ .cfg false).wait = false ∧
    (at_ (.clr 0) false).seq = .clr 0 ∧ 0 < (at_ (.clr 0) false).params.pixels ∧
    (at_ (.clr 2) false).seq = .clr 2 ∧ 2 < (at_ (.clr 2) false).params.pixels := by decide

/-- HeaderStepSendsAZeroByte, PayloadStepSendsOneStoredByte, TrailerStepSendsAZeroByte and
SettleStepWaitsOutTheDelay: both halves of each. -/
theorem witness_handshakes :
    (at_ (.hdr 3) false).seq = .hdr 3 ∧ (at_ (.hdr 3) false).wait = false ∧ (at_ (.hdr 3) true).wait = true ∧
    (at_ (.hdr 3) true).txDone = true ∧ (at_ (.pay 2 .blue) false).seq = .pay 2 .blue ∧
    (at_ (.pay 2 .blue) true).txDone = true ∧ (at_ (.trl 3) true).seq = .trl 3 ∧
    (at_ .settle true).dlyDone = true ∧ (at_ .settle true).rst = false := by decide

/-- BusyStartsByACommandAndEndsAtSettle: a step that sets `BUSY` and the steps that clear it. -/
theorem witness_busy_edges :
    (∃ t, step { ready with cmds := [0x060000000000] } = .next t ∧ t.busy = true) ∧ ready.busy = false ∧
    (∃ t, step (at_ .settle true) = .next t ∧ t.busy = false) ∧ (at_ .settle true).busy = true ∧
    ∃ t, step { at_ (.pay 1 .red) true with rst := true } = .next t ∧ t.busy = false :=
  ⟨⟨_, rfl, rfl⟩, rfl, ⟨_, rfl, rfl⟩, rfl, _, rfl, rfl⟩

/-- NoCommandIsAcceptedWhileBusy and CommandWordsLeaveOnlyByAcceptance. -/
theorem witness_busy_port :
    (at_ (.hdr 0) false).busy = true ∧ (at_ (.hdr 0) false).rst = false ∧
    (∃ t, step { ready with cmds := [0x020000000000] } = .next t) ∧ ∃ t, step (at_ (.hdr 0) false) = .next t :=
  ⟨rfl, rfl, ⟨_, rfl⟩, _, rfl⟩

/-- SilentServiceLeavesTheBlockStuck: a byte never completed, and a delay never completed; then a reset. -/
theorem witness_stuck :
    (at_ (.pay 0 .red) true).wait = true ∧ (at_ (.pay 0 .red) true).seq.isHandshake = true ∧
    (∀ e ∈ [silent, silent], e.rst = false ∧
      (if (at_ (.pay 0 .red) true).seq = .settle then e.dlyDone = false else e.txDone = false)) ∧
    (at_ .settle true).seq.isHandshake = true ∧
    (∀ e ∈ [silent], e.rst = false ∧
      (if (at_ .settle true).seq = .settle then e.dlyDone = false else e.txDone = false)) := by decide

/-- EachSequencerStepComesOneNearer and PromptServicesBringTheBlockToIdle. -/
theorem witness_sequencer_running :
    (at_ (.pay 2 .blue) true).params.wellFormed = true ∧ (at_ (.pay 2 .blue) true).SeqOk ∧
    (at_ (.pay 2 .blue) true).rst = false ∧ (at_ (.pay 2 .blue) true).busy = true ∧
    (at_ (.pay 2 .blue) true).Prompt ∧ (at_ (.pay 2 .blue) true).cmds = [] ∧
    ∃ t, step (at_ (.pay 2 .blue) true) = .next t :=
  ⟨by decide, ⟨(by decide : 2 < 3), by decide⟩, rfl, rfl, ⟨rfl, rfl⟩, rfl, _, rfl⟩

/-- ControlDoesNotDependOnPixels: two buffers, one of them partly written. -/
theorem witness_same_control :
    (at_ (.pay 0 .green) false).SameControl { at_ (.pay 0 .green) false with pix := [(1, 0x00808080)] } ∧
    ∃ t, step (at_ (.pay 0 .green) false) = .next t := ⟨⟨rfl, rfl, rfl, rfl, rfl, rfl, rfl, rfl⟩, _, rfl⟩

/-- EveryStepKeepsTheInvariant and UndefinedWordIsNeverRendered: a state at rest and one that sends a pixel. -/
theorem witness_invariant : ready.Inv ∧ (at_ (.pay 2 .blue) false).Inv ∧
    (at_ (.pay 2 .blue) false).rst = false ∧ (at_ (.pay 2 .blue) false).seq = .pay 2 .blue ∧
    (∃ t, step (at_ (.pay 2 .blue) false) = .next t) ∧ ∃ t, clock silent (at_ (.pay 2 .blue) false) = .next t :=
  ⟨ready_inv, paying_inv, rfl, rfl, ⟨_, rfl⟩, _, rfl⟩

/-- ResetMeetsTheInvariant. -/
theorem witness_params : three.wellFormed = true ∧ empty.wellFormed = true := by decide

/-- AStepIssuesAtMostOneEvent and ParametersNeverChange: a step for each kind of event, and one for none. -/
theorem witness_events :
    (∃ t, step (at_ .cfg false) = .next t ∧
      t.out = (at_ .cfg false).out ++ [.cfg .controller 0 .msbFirst 1000000]) ∧
    (∃ t, step (at_ (.hdr 0) false) = .next t ∧ t.out = (at_ (.hdr 0) false).out ++ [.tx 0]) ∧
    (∃ t, step (at_ .settle false) = .next t ∧ t.out = (at_ .settle false).out ++ [.delay 3]) ∧
    ∃ t, step ready = .next t ∧ t.out = ready.out := ⟨⟨_, rfl, rfl⟩, ⟨_, rfl, rfl⟩, ⟨_, rfl, rfl⟩, _, rfl, rfl⟩

/-- ConfiguredIsSetByInitAndClearedByReset: the step that sets the flag, the one that clears it, and an idle block
with each value of it. -/
theorem witness_configured_edges :
    (∃ t, step { fresh with seq := .cfg } = .next t ∧ t.configured = true) ∧ fresh.configured = false ∧
    (∃ t, step { ready with rst := true } = .next t ∧ t.configured = false) ∧ ready.configured = true ∧
    fresh.busy = false ∧ ready.busy = false := ⟨⟨_, rfl, rfl⟩, rfl, ⟨_, rfl, rfl⟩, rfl, rfl, rfl⟩

/-- ResetWinsInEveryState: in the middle of a frame, with a word on the port. -/
theorem witness_reset : ({ at_ (.pay 1 .red) true with rst := true, cmds := [0x060000000000] } : State).rst = true :=
  rfl

/-- ConstructLeavesTheResetState. -/
theorem witness_construct : fresh = State.construct three := rfl

/-- StepExecutesTheOfferedCommand: both clauses. -/
theorem witness_offered :
    ({ ready with cmds := [0x060000000000] } : State).rst = false ∧
    ({ ready with cmds := [0x060000000000] } : State).seq = .idle ∧
    decode 0x060000000000 = .ok .render ∧ Instr.render.wellFormed = true ∧
    decodeTableWord 48 0x060000000000 = some .render := ⟨rfl, rfl, rfl, rfl, rfl⟩

/-- FrameIsCutWithoutKnowingN, FrameDeterminesTheBuffer, FrameLengthFormula and BitStreamIsMostSignificantFirst:
written words, for three pixels and for none, and a bit of the last byte. -/
theorem witness_wire :
    (∀ w ∈ primaries, marked w = true) ∧ primaries.length = three.pixels ∧ three.trailerLen = 4 ∧
    ([] : List Word).length = empty.pixels ∧ empty.pixels = 0 ∧ 135 / 8 < (frame three primaries).length :=
  ⟨List.all_eq_true.mp (rfl : primaries.all marked = true), rfl, rfl, rfl, rfl, by decide⟩

/-- RenderCyclePutsOneFrameOnTheWire. -/
theorem witness_render_cycle : ready.holds primaries ∧ readyEmpty.holds [] := ⟨ready_holds, readyEmpty_holds⟩

end Sys2Proof.Tests
end

section
/-! The family `00_scope.md`: the parameters and the constants of the transport (R11), and the invariant of every
run. -/

namespace Sys2Proof.Machine

variable {s t : State}

/-! ## Parameters and the trace (R11, R36) -/

theorem State.tick_params (hb : s.busy = true) : s.tick.params = s.params := by
  cases State.tick_cases hb <;> simp [*]

theorem exec_params {i : Instr} (h : exec i s = .next t) : t.params = s.params := by
  cases exec_cases h <;> simp [*]

theorem step_params (h : step s = .next t) : t.params = s.params := by
  cases step_cases h with
  | reset _ ht => simp [ht]
  | runs _ hb ht => rw [ht, State.tick_params hb]
  | rests _ _ _ ht => simp [ht]
  | accepts _ _ _ _ _ _ _ hx => exact (exec_params hx).trans s.accept_params

/-- What one clock can append to the trace: nothing, the `Cfg` event of the `CFG` step, a byte, or the delay. -/
inductive TraceCase (s t : State) : Prop where
  | silent (ho : t.out = s.out)
  | configures (hq : s.seq = .cfg) (ho : t.out = s.out ++ [cfgEvent s.params])
  | sends (b : Byte) (ho : t.out = s.out ++ [.tx b])
  | delays (ho : t.out = s.out ++ [delayEvent s.params])

theorem State.tick_trace (hb : s.busy = true) : TraceCase s s.tick := by
  cases State.tick_cases hb with
  | waits _ _ ht => exact .silent (by simp [ht])
  | completes _ _ ht => exact .silent (by simp [ht])
  | configures _ hq ht => exact .configures hq (by simp [ht])
  | clears _ _ _ ht => exact .silent (by simp [ht])
  | sendsZero _ _ ht => exact .sends 0 (by simp [ht])
  | sendsPixel _ i j _ ht => exact .sends (s.pix.byteAt i j s.draws).1 (by simp [ht])
  | settles _ _ ht => exact .delays (by simp [ht])

theorem exec_out {i : Instr} (h : exec i s = .next t) : t.out = s.out := by
  cases exec_cases h <;> simp [*]

theorem step_trace (h : step s = .next t) : TraceCase s t := by
  cases step_cases h with
  | reset _ ht => exact .silent (by simp [ht])
  | runs _ hb ht => exact ht ▸ State.tick_trace hb
  | rests _ _ _ ht => exact .silent (by simp [ht])
  | accepts _ _ _ _ _ _ _ hx => exact .silent ((exec_out hx).trans s.accept_out)

/-- A `Cfg` event is the `CFG` step's, with the constants of R131. -/
theorem step_cfg_event (h : step s = .next t) {role : BusRole} {mode : BitVec 2} {order : BitOrder}
    {rate : BitVec 32} (ho : t.out = s.out ++ [.cfg role mode order rate]) :
    s.seq = .cfg ∧ Event.cfg role mode order rate = cfgEvent s.params := by
  cases step_trace h with
  | silent hs => simp [hs] at ho
  | configures hq hc => exact ⟨hq, by simpa [hc] using ho.symm⟩
  | sends b hb => simp [hb] at ho
  | delays hd => simp [hd, delayEvent] at ho

/-! ## Positions of the sequencer -/

theorem Seq.afterConfigure_of_isHandshake {q : Seq} (h : q.isHandshake = true) : q.afterConfigure = true := by
  cases q <;> simp_all [Seq.isHandshake, Seq.afterConfigure]

theorem Seq.inRange_clearStart {p : Params} (hp : p.wellFormed = true) : (Seq.clearStart p).inRange p :=
  Seq.inRange_after hp (q := .cfg) True.intro

theorem Seq.written_clearStart (p : Params) : (Seq.clearStart p).written p = 0 := by
  unfold Seq.clearStart
  split
  · rfl
  · simp only [Seq.written]; omega

theorem Seq.written_le {p : Params} {q : Seq} (h : q.inRange p) : q.written p ≤ p.pixels := by
  cases q with
  | clr i => exact Nat.le_of_lt h
  | _ => exact Nat.le_refl _

theorem Seq.written_of_isHandshake {q : Seq} (h : q.isHandshake = true) (p : Params) :
    q.written p = p.pixels := by
  cases q <;> simp_all [Seq.isHandshake, Seq.written]

theorem Seq.written_after_clr {p : Params} {i : Nat} (h : i < p.pixels) :
    (Seq.after p (.clr i)).written p = i + 1 := by
  simp only [Seq.after]
  split
  · rfl
  · simp only [Seq.written]; omega

/-! ## The invariant, operation by operation -/

/-- The invariant reads six fields of the state. -/
theorem State.Inv.of_fields (h : s.Inv) (hparams : t.params = s.params) (hpix : t.pix = s.pix)
    (hconf : t.configured = s.configured) (hseq : t.seq = s.seq) (hwait : t.wait = s.wait)
    (hout : t.out = s.out) : t.Inv := by
  obtain ⟨hp, ⟨hcan, hbound, hmark⟩, ⟨hcount, hhand⟩, ⟨hpast, hwritten, hfirst, hissued⟩⟩ := h
  constructor
  · rwa [hparams]
  · constructor <;> simpa only [hparams, hpix]
  · constructor <;> simpa only [hparams, hseq, hwait]
  · constructor <;> simpa only [hparams, hpix, hconf, hseq, hout]

theorem State.Inv.endPulses (h : s.Inv) : s.endPulses.Inv := h.of_fields rfl rfl rfl rfl rfl rfl

theorem State.Inv.accept (h : s.Inv) : s.accept.Inv := h.of_fields rfl rfl rfl rfl rfl rfl

theorem State.Inv.withInputs (h : s.Inv) (e : Inputs) : (s.withInputs e).Inv :=
  h.of_fields rfl rfl rfl rfl rfl rfl

theorem State.Inv.respond (h : s.Inv) (v : Word) : (s.respond v).Inv := h.of_fields rfl rfl rfl rfl rfl rfl

/-- Only steps with two halves, all past `CFG`, are found waiting. -/
theorem State.Inv.wait_of_idle (h : s.Inv) (hi : s.seq = .idle) : s.wait = false := by
  have hhand := h.seq.waiting
  simpa [hi, Seq.isHandshake] using hhand

/-- An idle configured block has written every pixel. -/
theorem State.Inv.written_of_idle (h : s.Inv) (hi : s.seq = .idle) :
    s.configured = true → ∀ k < s.params.pixels, (s.pix.read k).isSome = true := by
  simpa [hi, Seq.written] using h.life.writtenBelow

/-- Moving to a position in range keeps the invariant, if the block is configured where it must be and has written
the pixels that the new position counts on. -/
theorem State.Inv.move (h : s.Inv) {q : Seq} (hr : q.inRange s.params)
    (hc : q.afterConfigure = true → s.configured = true)
    (hw : s.configured = true → ∀ i < q.written s.params, (s.pix.read i).isSome = true) :
    ({ s with wait := false, seq := q } : State).Inv where
  params := h.params
  pix := ⟨h.pix.canonical, h.pix.bounded, h.pix.markers⟩
  seq := ⟨hr, nofun⟩
  life := ⟨hc, hw, h.life.cfgFirst, h.life.cfgIssued⟩

/-- No store turns a written pixel back into `UNDEF`. -/
theorem State.isSome_read_storePixel {k : Nat} (h : (s.pix.read k).isSome = true) (i : Nat) (w : Word) :
    ((s.storePixel i w).pix.read k).isSome = true := by
  by_cases hi : i < s.params.pixels
  · rw [State.read_storePixel s hi]
    split
    · rfl
    · exact h
  · rwa [State.storePixel_of_ge s (Nat.le_of_not_lt hi)]

theorem State.Inv.storePixel (h : s.Inv) (i : Nat) {w : Word} (hw : marked w = true) :
    (s.storePixel i w).Inv where
  params := by simpa using h.params
  pix := State.pixOk_storePixel h.pix i hw
  seq := ⟨by simpa using h.seq.counters, by simpa using h.seq.waiting⟩
  life :=
    { configuredPast := by simpa using h.life.configuredPast
      writtenBelow := fun hc k hk =>
        State.isSome_read_storePixel (h.life.writtenBelow (by simpa using hc) k (by simpa using hk)) i w
      cfgFirst := by simpa using h.life.cfgFirst
      cfgIssued := by simpa using h.life.cfgIssued }

/-- Handing a call over keeps the invariant: the block is configured, so the call is not its first event. -/
theorem State.Inv.handOver (h : s.Inv) (hq : s.seq.isHandshake = true) (e : Event) : (s.handOver e).Inv := by
  have hne : s.out ≠ [] := h.life.cfgIssued (h.life.configuredPast (Seq.afterConfigure_of_isHandshake hq))
  exact
    { params := h.params
      pix := ⟨h.pix.canonical, h.pix.bounded, h.pix.markers⟩
      seq := ⟨h.seq.counters, fun _ => hq⟩
      life :=
        { configuredPast := h.life.configuredPast
          writtenBelow := h.life.writtenBelow
          cfgFirst := fun e' he =>
            h.life.cfgFirst e' (by rwa [State.handOver_out, List.head?_append_of_ne_nil _ hne] at he)
          cfgIssued := fun _ => by simp } }

theorem State.Inv.sendPixelByte (h : s.Inv) {i : Nat} {j : Channel} (hq : s.seq = .pay i j) :
    (s.sendPixelByte i j).Inv :=
  (h.handOver (by simp [hq, Seq.isHandshake]) (.tx (s.pix.byteAt i j s.draws).1)).of_fields
    rfl rfl rfl rfl rfl rfl

/-- The completion half moves on from a step that leaves every pixel written. -/
theorem State.Inv.completes (h : s.Inv) (hw : s.wait = true) :
    ({ s with wait := false, seq := Seq.after s.params s.seq } : State).Inv := by
  have hq := h.seq.waiting hw
  have hr := Seq.inRange_after h.params h.seq.counters
  have hc := h.life.configuredPast (Seq.afterConfigure_of_isHandshake hq)
  refine h.move hr (fun _ => hc) fun _ k hk => h.life.writtenBelow hc k ?_
  rw [Seq.written_of_isHandshake hq]
  exact Nat.lt_of_lt_of_le hk (Seq.written_le hr)

theorem State.Inv.goto (h : s.Inv) (hwait : s.wait = false) {q : Seq} (hr : q.inRange s.params)
    (hc : q.afterConfigure = true → s.configured = true)
    (hw : s.configured = true → ∀ i < q.written s.params, (s.pix.read i).isSome = true) : (s.goto q).Inv :=
  (h.move hr hc hw).of_fields rfl rfl rfl rfl hwait rfl

/-- The `CFG` step enters the Clear cycle configured, with no pixel counted as written yet, and its `Cfg` event is
the first of the trace or follows an earlier one. -/
theorem State.Inv.configures (h : s.Inv) (hwait : s.wait = false) :
    (s.configure.goto (Seq.clearStart s.params)).Inv where
  params := h.params
  pix := ⟨h.pix.canonical, h.pix.bounded, h.pix.markers⟩
  seq := ⟨Seq.inRange_clearStart h.params, by simp [hwait]⟩
  life :=
    { configuredPast := fun _ => rfl
      writtenBelow := by simp [Seq.written_clearStart]
      cfgFirst := fun e he => by
        cases ho : s.out with
        | nil => simpa [ho] using he.symm
        | cons a rest => exact h.life.cfgFirst e (by simpa [ho] using he)
      cfgIssued := fun _ => by simp }

/-- A `CLR(i)` step writes pixel `i` and moves on: the pixels up to `i` are now written. -/
theorem State.Inv.clears (h : s.Inv) (hwait : s.wait = false) {i : Nat} (hq : s.seq = .clr i) :
    ((s.storePixel i zeroColour).goto (Seq.after s.params (.clr i))).Inv := by
  have hi : i < s.params.pixels := by simpa [hq, Seq.inRange] using h.seq.counters
  have hc : s.configured = true := h.life.configuredPast (by simp [hq, Seq.afterConfigure])
  have hbelow : ∀ k < i, (s.pix.read k).isSome = true := by
    simpa [hq, Seq.written] using h.life.writtenBelow hc
  refine (h.storePixel i marked_zeroColour).goto (by simpa using hwait) ?_ (by simp [hc]) ?_
  · simpa [hq] using Seq.inRange_after h.params h.seq.counters
  · intro _ k hk
    simp only [State.storePixel_params, Seq.written_after_clr hi] at hk
    rw [State.read_storePixel s hi]
    split
    · rfl
    · exact hbelow k (by omega)

theorem State.Inv.resetEvent (h : s.Inv) : s.resetEvent.Inv where
  params := h.params
  pix := ⟨List.Pairwise.nil, by simp, by simp⟩
  seq := ⟨True.intro, nofun⟩
  life := ⟨nofun, nofun, h.life.cfgFirst, nofun⟩

/-! ## The invariant, clock by clock -/

/-- One clock of the running sequencer keeps the invariant. -/
theorem State.Inv.tick (h : s.Inv) (hb : s.busy = true) : s.tick.Inv := by
  cases State.tick_cases hb with
  | waits _ _ ht => exact ht ▸ h.endPulses
  | completes hw _ ht => exact ht ▸ h.endPulses.completes hw
  | configures hw _ ht => exact ht ▸ h.endPulses.configures hw
  | clears hw i hq ht => exact ht ▸ h.endPulses.clears hw hq
  | sendsZero _ hq ht =>
    refine ht ▸ h.endPulses.handOver ?_ (.tx 0)
    rcases hq with ⟨k, hq⟩ | ⟨k, hq⟩ <;> simp [hq, Seq.isHandshake]
  | sendsPixel _ i j hq ht => exact ht ▸ h.endPulses.sendPixelByte hq
  | settles _ hq ht => exact ht ▸ h.endPulses.handOver (by simp [hq, Seq.isHandshake]) _

/-- Every accepted command keeps the invariant. -/
theorem exec_keeps_inv {i : Instr} (h : s.Inv) (hx : exec i s = .next t) : t.Inv := by
  cases exec_cases hx with
  | busy _ ht => exact ht ▸ h
  | response _ v ht => exact ht ▸ h.respond v
  | store _ i w hw ht => exact ht ▸ h.storePixel i hw
  | configure hi ht =>
    exact ht ▸ h.goto (h.wait_of_idle hi) True.intro nofun (h.written_of_idle hi)
  | clear hi hc ht =>
    exact ht ▸ h.goto (h.wait_of_idle hi) (Seq.inRange_clearStart h.params) (fun _ => hc)
      (by simp [Seq.written_clearStart])
  | render hi hc ht =>
    exact ht ▸ h.goto (h.wait_of_idle hi) (q := .hdr 0) (by simp [Seq.inRange, Config.headerLen]) (fun _ => hc)
      (h.written_of_idle hi)

theorem step_keeps_inv (h : s.Inv) (hs : step s = .next t) : t.Inv := by
  cases step_cases hs with
  | reset _ ht => exact ht ▸ h.resetEvent
  | runs _ hb ht => exact ht ▸ h.tick hb
  | rests _ _ _ ht => exact ht ▸ h.endPulses
  | accepts _ _ _ _ _ _ _ hx => exact exec_keeps_inv h.accept hx

/-! ## The obligations of the family -/

/-- Settles O42: every operation that a step is made of keeps the invariant, and the environment's inputs touch none
of the fields it reads. -/
theorem everyStepKeepsTheInvariant : Obligations.EveryStepKeepsTheInvariant :=
  ⟨fun _ _ h hs => step_keeps_inv h hs, fun _ _ e h hs => step_keeps_inv (h.withInputs e) hs⟩

/-- Settles O46: what a step can append to the trace is said by `step_trace`, and only the `CFG` step's event is a
`Cfg`. -/
theorem parametersNeverChange : Obligations.ParametersNeverChange := by
  intro s t h
  refine ⟨step_params h, fun role mode order rate ho => ?_⟩
  obtain ⟨hq, he⟩ := step_cfg_event h ho
  obtain ⟨hrole, hmode, horder, hrate⟩ : role = .controller ∧ mode = Config.spiMode ∧ order = .msbFirst ∧
      rate = s.params.clockRateHz := by simpa [cfgEvent] using he
  exact ⟨hq, hrole, hmode, horder, hrate⟩

end Sys2Proof.Machine
end

section
/-! The family `10_state.md`: what each command kind does to the state, how `PIX`, `RSP`, `CONFIGURED`, the command
port and the trace change in one clock, and the state after reset. -/

namespace Sys2Proof.Machine

variable {s t : State}

/-! ## The commands by what they do (R102 to R105, R161) -/

/-- The commands that store a word at an index, with the word of R102 or R103. -/
inductive StoresAt : Instr → Index → Word → Prop where
  | setrgb (idx : Index) (red green blue : Byte) :
      StoresAt (.setrgb idx red green blue) idx (wireWord red green blue)
  | setpacked (idx : Index) (c : Packed) : StoresAt (.setpacked idx c) idx (packedWord c)

/-- The commands that return a word to the host, with the word of R104 or R105. -/
inductive Returns (p : Params) : Instr → Word → Prop where
  | count : Returns p .count (countWord p)
  | compose (red green blue : Byte) : Returns p (.compose red green blue) (wireWord red green blue)

theorem exec_of_storesAt {i : Instr} {idx : Index} {w : Word} (h : StoresAt i idx w) :
    exec i s = s.whenIdle (.next (s.storePixel idx.toNat w)) := by
  cases h <;> rfl

theorem exec_of_returns {i : Instr} {v : Word} (h : Returns s.params i v) :
    exec i s = s.whenIdle (.next (s.respond v)) := by
  cases h <;> rfl

/-- A command that answers a next state had its effect, or the block was busy and stayed as it was. -/
theorem State.whenIdle_next {u : State} (h : s.whenIdle (.next u) = .next t) : t = s ∨ t = u := by
  by_cases hb : s.busy = true
  · rw [State.whenIdle_of_busy hb] at h
    cases h
    exact .inl rfl
  · rw [State.whenIdle_of_idle (by simpa using hb)] at h
    cases h
    exact .inr rfl

/-- What an idle block does with a command: store a word, return one, or start the sequencer. -/
inductive CommandCase (i : Instr) (s t : State) : Prop where
  | stores (idx : Index) (w : Word) (hi : StoresAt i idx w) (ht : t = s.storePixel idx.toNat w)
  | returns (v : Word) (hi : Returns s.params i v) (ht : t = s.respond v)
  | starts (q : Seq) (ht : t = s.goto q)

/-- The precondition of RENDER and CLEAR lets an operation through exactly when the block is configured (R136). -/
theorem State.whenConfigured_next {u : State} :
    s.whenConfigured (.next u) = .next t ↔ s.configured = true ∧ u = t := by
  by_cases hc : s.configured = true
  · simp [State.whenConfigured_of_configured hc, hc]
  · simp [State.whenConfigured_of_not (by simpa using hc), hc]

theorem execRender_next (h : s.seq = .idle) :
    exec .render s = .next t ↔ s.configured = true ∧ s.goto (.hdr 0) = t := by
  rw [exec, execRender, State.whenIdle_of_idle h, State.whenConfigured_next]

theorem execClear_next (h : s.seq = .idle) :
    exec .clear s = .next t ↔ s.configured = true ∧ s.goto (Seq.clearStart s.params) = t := by
  rw [exec, execClear, State.whenIdle_of_idle h, State.whenConfigured_next]

theorem exec_commandCase {i : Instr} (hi : s.seq = .idle) (h : exec i s = .next t) : CommandCase i s t := by
  cases i with
  | init => rw [exec, execInit_of_idle hi] at h; cases h; exact .starts _ rfl
  | count => rw [exec, execCount_of_idle hi] at h; cases h; exact .returns _ .count rfl
  | compose r g b => rw [exec, execCompose_of_idle hi] at h; cases h; exact .returns _ (.compose r g b) rfl
  | setrgb idx r g b =>
    rw [exec, execSetrgb_of_idle hi] at h; cases h; exact .stores _ _ (.setrgb idx r g b) rfl
  | setpacked idx c => rw [exec, execSetpacked_of_idle hi] at h; cases h; exact .stores _ _ (.setpacked idx c) rfl
  | render => exact .starts _ ((execRender_next hi).mp h).2.symm
  | clear => exact .starts _ ((execClear_next hi).mp h).2.symm

/-! ## `PIX` (R21 to R25, R54) -/

theorem State.storePixel_pix (s : State) (i : Nat) (w : Word) :
    (s.storePixel i w).pix = if i < s.params.pixels then s.pix.write i w else s.pix := by
  unfold State.storePixel
  split <;> rfl

theorem State.endPulses_storePixel_pix (s : State) (i : Nat) (w : Word) :
    (s.endPulses.storePixel i w).pix = (s.storePixel i w).pix :=
  (State.storePixel_pix s.endPulses i w).trans (State.storePixel_pix s i w).symm

/-- A store changes `PIX` alone. -/
theorem State.storePixel_frame (s : State) (i : Nat) (w : Word) :
    s.storePixel i w = { s with pix := (s.storePixel i w).pix } := by
  unfold State.storePixel
  split <;> rfl

/-- An entry that a store changes is the one stored, it lies below `N`, and it now holds the word. -/
theorem State.read_storePixel_changed {i k : Nat} {w : Word}
    (h : (s.storePixel i w).pix.read k ≠ s.pix.read k) :
    i = k ∧ k < s.params.pixels ∧ (s.storePixel i w).pix.read k = some w := by
  by_cases hi : i < s.params.pixels
  · rw [State.read_storePixel s hi] at h ⊢
    by_cases hk : k = i
    · subst hk
      exact ⟨rfl, hi, if_pos rfl⟩
    · exact absurd (if_neg hk) h
  · exact absurd (by rw [State.storePixel_of_ge s (Nat.le_of_not_lt hi)]) h

theorem State.read_storePixel_other {i k : Nat} (hk : k ≠ i) (w : Word) :
    (s.storePixel i w).pix.read k = s.pix.read k :=
  Classical.byContradiction fun h => hk (State.read_storePixel_changed h).1.symm

/-- A store command changes `PIX` alone, and no entry of it but the one at its index. -/
theorem exec_store_frame {i : Instr} {idx : Index} {w : Word} (hi : StoresAt i idx w) (hx : exec i s = .next t) :
    t = { s with pix := t.pix } ∧ ∀ k, k ≠ idx.toNat → t.pix.read k = s.pix.read k := by
  rw [exec_of_storesAt hi] at hx
  rcases State.whenIdle_next hx with rfl | rfl
  · exact ⟨rfl, fun _ _ => rfl⟩
  · exact ⟨State.storePixel_frame s _ _, fun k hk => State.read_storePixel_other hk w⟩

/-- A clock of the running sequencer leaves `PIX` alone, or is the `CLR(i)` step's store of the zero colour. -/
theorem State.tick_pix (hb : s.busy = true) :
    s.tick.pix = s.pix ∨ ∃ i, s.seq = .clr i ∧ s.tick.pix = (s.storePixel i zeroColour).pix := by
  cases State.tick_cases hb with
  | clears _ i hq ht => exact .inr ⟨i, hq, by simp [ht, State.endPulses_storePixel_pix]⟩
  | _ => left; simp [*]

/-- `PixOk` reads two fields of the state. -/
theorem State.PixOk.of_fields (h : s.PixOk) (hparams : t.params = s.params) (hpix : t.pix = s.pix) : t.PixOk := by
  obtain ⟨hcan, hbound, hmark⟩ := h
  constructor <;> simpa only [hparams, hpix]

theorem State.pixOk_of_nil (h : s.pix = []) : s.PixOk := by
  constructor <;> simp [h]

theorem State.PixOk.tick (h : s.PixOk) (hb : s.busy = true) : s.tick.PixOk := by
  have hparams := State.tick_params hb
  rcases State.tick_pix hb with hpix | ⟨i, _, hpix⟩
  · exact h.of_fields hparams hpix
  · exact (State.pixOk_storePixel h i marked_zeroColour).of_fields (by simp [hparams]) hpix

theorem exec_keeps_pixOk {i : Instr} (h : s.PixOk) (hx : exec i s = .next t) : t.PixOk := by
  cases exec_cases hx with
  | store _ i w hw ht => exact ht ▸ State.pixOk_storePixel h i hw
  | _ => exact h.of_fields (by simp [*]) (by simp [*])

theorem step_keeps_pixOk (h : s.PixOk) (hs : step s = .next t) : t.PixOk := by
  cases step_cases hs with
  | reset _ ht => exact State.pixOk_of_nil (by simp [ht])
  | runs _ hb ht => exact ht ▸ h.tick hb
  | rests _ _ _ ht => exact h.of_fields (by simp [ht]) (by simp [ht])
  | accepts _ _ _ _ _ _ _ hx => exact exec_keeps_pixOk (h.of_fields s.accept_params s.accept_pix) hx

/-- R23 read off an entry of `PIX`. -/
theorem State.PixOk.read (h : s.PixOk) {i : Nat} {w : Word} (hr : s.pix.read i = some w) :
    i < s.params.pixels ∧ w &&& 0xFF808080 = 0x00808080 :=
  have hmem := Memory.read_mem hr
  ⟨h.bounded _ hmem, by simpa [marked] using h.markers _ hmem⟩

/-- A command that changes an entry of `PIX` on an idle block is a store of that entry, below `N`. -/
theorem exec_pix_changed {i : Instr} {k : Nat} (hi : s.seq = .idle) (hx : exec i s = .next t)
    (h : t.pix.read k ≠ s.pix.read k) : k < s.params.pixels ∧ ∃ idx w, StoresAt i idx w ∧ idx.toNat = k := by
  cases exec_commandCase hi hx with
  | stores idx w hst ht =>
    obtain ⟨hk, hlt, _⟩ := State.read_storePixel_changed (ht ▸ h)
    exact ⟨hlt, idx, w, hst, hk⟩
  | returns v _ ht => exact absurd (by rw [ht, State.respond_pix]) h
  | starts q ht => exact absurd (by rw [ht, State.goto_pix]) h

/-! ## `RSP` and the command port (R33, R40, R66) -/

/-- A command that returns a word changes `RSP`, the responses and `rsp_valid` alone. -/
theorem exec_return_frame {i : Instr} {v : Word} (hi : Returns s.params i v) (hx : exec i s = .next t) :
    t = { s with rsp := t.rsp, responses := t.responses, rspValid := t.rspValid } := by
  rw [exec_of_returns hi] at hx
  rcases State.whenIdle_next hx with rfl | rfl <;> rfl

theorem State.tick_rsp (hb : s.busy = true) : s.tick.rsp = s.rsp := by
  cases State.tick_cases hb <;> simp [*]

theorem State.tick_responses (hb : s.busy = true) : s.tick.responses = s.responses := by
  cases State.tick_cases hb <;> simp [*]

theorem State.tick_rspValid (hb : s.busy = true) : s.tick.rspValid = false := by
  cases State.tick_cases hb <;> simp [*]

theorem State.tick_cmds (hb : s.busy = true) : s.tick.cmds = s.cmds := by
  cases State.tick_cases hb <;> simp [*]

theorem exec_cmds {i : Instr} (h : exec i s = .next t) : t.cmds = s.cmds := by
  cases exec_cases h <;> simp [*]

/-- A table row's bits, read as six bytes, decode as their command word does (R71). -/
theorem decode_tableWord {nbits w : Nat} {i : Instr} (h : decodeTableWord nbits w = some i) :
    decode (tableWord nbits w) = .ok i := by
  have hbytes := decodeBytes_bytesOfWord (tableWord nbits w) []
  rw [List.append_nil] at hbytes
  rw [decodeTableWord, hbytes] at h
  cases hd : decode (tableWord nbits w) with
  | error e => simp [hd, Except.map] at h
  | ok j => simpa [hd, Except.map] using h

/-! ## The pulses of the service ports (R36, R160, R41, R42) -/

/-- The pulse outputs when no event is issued. -/
theorem State.outputs_of_silent (h : t.strobe = none) :
    t.outputs.cfgValid = false ∧ t.outputs.txValid = false ∧ t.outputs.dlyStart = false := by
  simp [State.outputs, h]

theorem State.outputs_of_cfg {p : Params} (h : t.strobe = some (cfgEvent p)) :
    t.outputs.cfgValid = true ∧ t.outputs.txValid = false ∧ t.outputs.dlyStart = false := by
  simp [State.outputs, h, cfgEvent]

theorem State.outputs_of_tx {b : Byte} (h : t.strobe = some (.tx b)) :
    t.outputs.cfgValid = false ∧ t.outputs.txValid = true ∧ t.outputs.txData = some b ∧
      t.outputs.dlyStart = false := by
  simp [State.outputs, h]

theorem State.outputs_of_delay {ms : BitVec 16} (h : t.strobe = some (.delay ms)) :
    t.outputs.cfgValid = false ∧ t.outputs.txValid = false ∧ t.outputs.dlyStart = true := by
  simp [State.outputs, h]

/-- What one clock issues, in the trace and on the ports: nothing, the `Cfg` event, or a call handed over. -/
inductive IssueCase (s t : State) : Prop where
  | silent (ho : t.out = s.out) (hp : t.strobe = none)
  | configures (ho : t.out = s.out ++ [cfgEvent s.params]) (hp : t.strobe = some (cfgEvent s.params))
  | sends (b : Byte) (ho : t.out = s.out ++ [.tx b]) (hp : t.strobe = some (.tx b)) (hw : t.wait = true)
  | delays (ho : t.out = s.out ++ [.delay s.params.settleMs]) (hp : t.strobe = some (.delay s.params.settleMs))
      (hw : t.wait = true)

theorem State.tick_issue (hb : s.busy = true) : IssueCase s s.tick := by
  cases State.tick_cases hb with
  | waits _ _ ht => exact .silent (by simp [ht]) (by simp [ht])
  | completes _ _ ht => exact .silent (by simp [ht]) (by simp [ht])
  | configures _ _ ht => exact .configures (by simp [ht]) (by simp [ht])
  | clears _ _ _ ht => exact .silent (by simp [ht]) (by simp [ht])
  | sendsZero _ _ ht => exact .sends 0 (by simp [ht]) (by simp [ht]) (by simp [ht])
  | sendsPixel _ i j _ ht =>
    exact .sends (s.pix.byteAt i j s.draws).1 (by simp [ht]) (by simp [ht]) (by simp [ht])
  | settles _ _ ht => exact .delays (by simp [ht, delayEvent]) (by simp [ht, delayEvent]) (by simp [ht])

theorem exec_strobe {i : Instr} (h : exec i s = .next t) : t.strobe = s.strobe := by
  cases exec_cases h <;> simp [*]

theorem step_issue (h : step s = .next t) : IssueCase s t := by
  cases step_cases h with
  | reset _ ht => exact .silent (by simp [ht]) (by simp [ht])
  | runs _ hb ht => exact ht ▸ State.tick_issue hb
  | rests _ _ _ ht => exact .silent (by simp [ht]) (by simp [ht])
  | accepts _ _ _ _ _ _ _ hx =>
    exact .silent ((exec_out hx).trans s.accept_out) ((exec_strobe hx).trans s.accept_strobe)

/-! ## `CONFIGURED` (R29) -/

theorem State.tick_configured (hb : s.busy = true) :
    s.tick.configured = true ↔ s.configured = true ∨ (s.seq = .cfg ∧ s.wait = false) := by
  cases State.tick_cases hb with
  | sendsZero _ hq ht => rcases hq with ⟨k, hq⟩ | ⟨k, hq⟩ <;> simp [ht, hq]
  | _ => simp [*]

theorem exec_configured {i : Instr} (h : exec i s = .next t) : t.configured = s.configured := by
  cases exec_cases h <;> simp [*]

/-- Out of reset a clock leaves the block configured exactly when it was, or took the `CFG` step. -/
theorem step_configured (hr : s.rst = false) (h : step s = .next t) :
    t.configured = true ↔ s.configured = true ∨ (s.seq = .cfg ∧ s.wait = false) := by
  cases step_cases h with
  | reset hr' _ => simp [hr] at hr'
  | runs _ hb ht => rw [ht, State.tick_configured hb]
  | rests _ hi _ ht => simp [ht, hi]
  | accepts _ hi _ _ _ _ _ hx => simp [exec_configured hx, hi]

theorem step_reset_configured (hr : s.rst = true) (h : step s = .next t) : t.configured = false := by
  rw [step_of_rst hr] at h
  cases h
  rfl

/-- A step sets `CONFIGURED` only at `CFG` and there always, and clears it only by reset and then always. -/
theorem step_configured_edges (h : step s = .next t) :
    (s.configured = false → t.configured = true → s.rst = false ∧ s.seq = .cfg) ∧
    (s.configured = true → t.configured = false → s.rst = true) ∧
    (s.rst = false → s.seq = .cfg → s.wait = false → t.configured = true) ∧
    (s.rst = true → t.configured = false) := by
  cases hr : s.rst with
  | true => simp [step_reset_configured hr h]
  | false =>
    have hiff := step_configured hr h
    refine ⟨fun hs ht => ?_, fun hs ht => ?_, fun _ hq hw => hiff.mpr (.inr ⟨hq, hw⟩), nofun⟩
    · rcases hiff.mp ht with hc | ⟨hq, _⟩
      · simp [hs] at hc
      · exact ⟨rfl, hq⟩
    · simp [hiff.mpr (.inl hs)] at ht

/-! ## The state after reset (R44, R101) -/

theorem Config.params_settleMs_ne_zero : Config.params.settleMs ≠ 0#16 := by
  have hlt := Config.settleLessOne.isLt
  intro h
  have hnat : (Config.settleLessOne.val + 1) % 2 ^ 16 = 0 := congrArg BitVec.toNat h
  omega

theorem Config.params_wellFormed : Config.params.wellFormed = true :=
  Bool.and_eq_true_iff.mpr
    ⟨decide_eq_true (Nat.le_add_right _ _), decide_eq_true Config.params_settleMs_ne_zero⟩

theorem State.construct_inv {p : Params} (hp : p.wellFormed = true) : (State.construct p).Inv where
  params := hp
  pix := State.pixOk_of_nil rfl
  seq := ⟨True.intro, nofun⟩
  life := ⟨nofun, nofun, nofun, nofun⟩

/-! ## The obligations of the family -/

/-- Settles O15: a store changes `PIX` alone and one entry of it, a returned response no more than its three
fields, and a busy block does neither. -/
theorem pixelBufferOpsFrame : Obligations.PixelBufferOpsFrame := by
  constructor
  · rintro s t idx i (⟨r, g, b, rfl⟩ | ⟨c, rfl⟩) hx
    · exact exec_store_frame (.setrgb idx r g b) hx
    · exact exec_store_frame (.setpacked idx c) hx
  · rintro s t i (rfl | ⟨r, g, b, rfl⟩) hx
    · exact exec_return_frame .count hx
    · exact exec_return_frame (.compose r g b) hx

/-- Settles O18: reset empties `PIX` and every other write of it is a store of a marked word below `N`. -/
theorem writtenWordsKeepTheirMarkers : Obligations.WrittenWordsKeepTheirMarkers := by
  refine ⟨fun _ => State.pixOk_of_nil rfl, fun s t h hs => ?_⟩
  have ht := step_keeps_pixOk h hs
  exact ⟨ht, fun _ _ hr => ht.read hr⟩

/-- Settles O19: out of reset `PIX` is written by the `CLR` step and by the two stores alone. -/
theorem pixelsChangeOnlyByStoresAndClear : Obligations.PixelsChangeOnlyByStoresAndClear := by
  intro s t k hr hs hne
  cases step_cases hs with
  | reset hr' _ => simp [hr] at hr'
  | runs _ hb ht =>
    subst ht
    rcases State.tick_pix hb with hpix | ⟨i, hq, hpix⟩
    · exact absurd (by rw [hpix]) hne
    · rw [hpix] at hne ⊢
      obtain ⟨rfl, hlt, hread⟩ := State.read_storePixel_changed hne
      exact ⟨hlt, .inl ⟨hq, hread⟩⟩
  | rests _ _ _ ht => exact absurd (by rw [ht, State.endPulses_pix]) hne
  | accepts _ hi w rest i hc hd hx =>
    obtain ⟨hlt, idx, v, hst, hk⟩ := exec_pix_changed (s := s.accept) hi hx hne
    refine ⟨hlt, .inr ⟨hi, w, rest, hc, ?_⟩⟩
    cases hst with
    | setrgb idx r g b => exact .inl ⟨idx, r, g, b, hd, hk⟩
    | setpacked idx c => exact .inr ⟨idx, c, hd, hk⟩

/-- Settles O20: of all that a clock out of reset can do, only a command that returns a word touches `RSP`. -/
theorem onlyComposeAndCountRespond : Obligations.OnlyComposeAndCountRespond := by
  intro s t hr hs
  cases step_cases hs with
  | reset hr' _ => simp [hr] at hr'
  | runs _ hb ht =>
    exact .inl (ht ▸ ⟨State.tick_rsp hb, State.tick_responses hb, State.tick_rspValid hb⟩)
  | rests _ _ _ ht => exact .inl (by simp [ht])
  | accepts _ hi w rest i hc hd hx =>
    cases exec_commandCase (s := s.accept) hi hx with
    | stores idx v _ ht => exact .inl (by simp [ht])
    | starts q ht => exact .inl (by simp [ht])
    | returns v hret ht =>
      subst ht
      refine .inr ⟨hi, w, rest, hc, rfl, rfl, ?_⟩
      cases hret with
      | count => exact .inl ⟨hd, rfl⟩
      | compose r g b => exact .inr ⟨r, g, b, hd, rfl⟩

/-- Settles O37: acceptance alone takes a word off the port, and an idle block out of reset with a word offered
accepts. -/
theorem commandWordsLeaveOnlyByAcceptance : Obligations.CommandWordsLeaveOnlyByAcceptance := by
  intro s t hs
  cases step_cases hs with
  | reset hr ht => exact ⟨fun _ hr' => by simp [hr] at hr', fun _ => by simp [ht]⟩
  | runs _ hb ht =>
    exact ⟨fun _ _ hi => absurd hi (by simpa using hb), fun _ => by rw [ht, State.tick_cmds hb]⟩
  | rests _ _ hc ht => exact ⟨fun hne => absurd hc hne, fun _ => by simp [ht]⟩
  | accepts hr hi _ _ _ _ _ hx => exact ⟨fun _ _ _ => exec_cmds hx, fun h => by simp [hr, hi] at h⟩

/-- Settles O45: what a clock issues stands alike in the trace and on the ports. -/
theorem aStepIssuesAtMostOneEvent : Obligations.AStepIssuesAtMostOneEvent := by
  intro s t hs
  cases step_issue hs with
  | silent ho hp => exact .inl ⟨ho, State.outputs_of_silent hp⟩
  | configures ho hp => exact .inr (.inl ⟨ho, State.outputs_of_cfg hp⟩)
  | sends b ho hp hw =>
    obtain ⟨hcfg, htx, hdata, hdly⟩ := State.outputs_of_tx hp
    exact .inr (.inr (.inl ⟨b, ho, hcfg, htx, hdata, hdly, hw⟩))
  | delays ho hp hw =>
    obtain ⟨hcfg, htx, hdly⟩ := State.outputs_of_delay hp
    exact .inr (.inr (.inr ⟨ho, hcfg, htx, hdly, hw⟩))

/-- Settles O47: `CONFIGURED` starts at 0, changes at the edges of `step_configured_edges`, and is what
`whenConfigured` asks for. -/
theorem configuredIsSetByInitAndClearedByReset : Obligations.ConfiguredIsSetByInitAndClearedByReset := by
  refine ⟨fun _ => rfl, fun _ _ h => step_configured_edges h, fun s hb => ?_⟩
  have hi : s.seq = .idle := by simpa using hb
  exact ⟨by simp [execRender_next hi], by simp [execClear_next hi]⟩

/-- Settles O43: nothing is written, issued or configured after reset, and R10's bounds hold of `Config.params`. -/
theorem resetMeetsTheInvariant : Obligations.ResetMeetsTheInvariant :=
  ⟨State.construct_inv Config.params_wellFormed, fun _ hp => State.construct_inv hp⟩

/-- Settles O49: each value is the one `State.construct` writes out. -/
theorem constructLeavesTheResetState : Obligations.ConstructLeavesTheResetState := by
  refine ⟨rfl, ?_⟩
  rintro p s rfl
  obtain ⟨hcfg, htx, hdly⟩ := State.outputs_of_silent (t := State.construct p) rfl
  exact ⟨rfl, fun _ => rfl, rfl, rfl, rfl, rfl, rfl, rfl, hcfg, htx, hdly, rfl⟩

/-- Settles O50: both are acceptance of the first offered word, whose state is written out. -/
theorem stepExecutesTheOfferedCommand : Obligations.StepExecutesTheOfferedCommand := by
  constructor
  · intro s w rest i hr hi hc hd _
    have haccept : s.accept = { s with cmds := rest, strobe := none, rspValid := false } := by
      simp [State.accept, State.endPulses, hc]
    rw [step_of_accept hr hi hc hd, haccept]
  · intro s nbits w i hd
    exact step_of_accept rfl rfl rfl (decode_tableWord hd)

end Sys2Proof.Machine
end

section
/-! The family `20_memory.md`: a write outside the buffer, and the bit stream of a byte list. -/

namespace Sys2Proof.Machine

/-! ## A write at `idx >= N` (R54) -/

/-- A store command whose index lies outside the buffer answers the state it found, idle or busy. -/
theorem exec_store_of_ge {s : State} {i : Instr} {idx : Index} {w : Word} (hi : StoresAt i idx w)
    (h : s.params.n ≤ idx) : exec i s = .next s := by
  rw [exec_of_storesAt hi, State.storePixel_of_ge s (BitVec.le_def.mp h)]
  by_cases hb : s.busy = true
  · exact State.whenIdle_of_busy hb _
  · exact State.whenIdle_of_idle (by simpa using hb) _

/-! ## The length of a frame (R83) -/

@[simp] theorem bytesOf_length (w : Word) : (bytesOf w).length = 3 := rfl

theorem frame_length (p : Params) (ws : List Word) :
    (frame p ws).length = Config.headerLen + 3 * ws.length + p.trailerLen := by
  simp [frame, zeros, List.length_flatMap, Nat.mul_comm, Nat.add_assoc]

/-! ## The bit stream (R51, R84) -/

@[simp] theorem byteBits_length (b : Byte) : (byteBits b).length = 8 := rfl

/-- Bit `k` of a byte in time order is its bit `7 - k`. -/
theorem byteBits_getElem? (b : Byte) {k : Nat} (h : k < 8) : (byteBits b)[k]? = some (b.getLsbD (7 - k)) := by
  interval_cases k <;> rfl

@[simp] theorem bitStream_cons (b : Byte) (l : List Byte) : bitStream (b :: l) = byteBits b ++ bitStream l := rfl

theorem bitStream_length (l : List Byte) : (bitStream l).length = 8 * l.length := by
  simp [bitStream, List.length_flatMap, Nat.mul_comm]

/-- The first eight bits are the first byte's; from there on the rest's stream begins. -/
theorem bitStream_getElem? (l : List Byte) (k : Nat) (h : k / 8 < l.length) :
    (bitStream l)[k]? = some (l[k / 8].getLsbD (7 - k % 8)) := by
  induction l generalizing k with
  | nil => simp at h
  | cons b l ih =>
    rw [bitStream_cons]
    by_cases hk : k < 8
    · rw [List.getElem?_append_left (by simpa using hk), byteBits_getElem? b hk]
      simp [Nat.div_eq_of_lt hk, Nat.mod_eq_of_lt hk]
    · obtain ⟨m, rfl⟩ := Nat.exists_eq_add_of_le' (Nat.le_of_not_lt hk)
      have hdiv : (m + 8) / 8 = m / 8 + 1 := by omega
      have hm : m / 8 < l.length := by simpa [hdiv] using h
      rw [List.getElem?_append_right (by simp)]
      simp [hdiv, ih m hm]

/-! ## The obligations of the family -/

/-- Settles O54: bit by bit along the bytes, and a frame's bits by its length in bytes. -/
theorem bitStreamIsMostSignificantFirst : Obligations.BitStreamIsMostSignificantFirst := by
  refine ⟨fun l => ⟨bitStream_length l, bitStream_getElem? l⟩, fun p ws hws => ?_⟩
  rw [bitStream_length, frame_length, hws]

/-- Settles O14: both are store commands, and a store outside the buffer is no store. -/
theorem outOfRangeWriteDoesNothing : Obligations.OutOfRangeWriteDoesNothing :=
  fun _ idx red green blue c h =>
    ⟨exec_store_of_ge (.setrgb idx red green blue) h, exec_store_of_ge (.setpacked idx c) h⟩

end Sys2Proof.Machine
end

section
/-! The family `30_encoding.md`: what the decoder answers for each operation code, the opcode map, the operands as
fields of the word, the assembler, and the frame of a render cycle. -/

namespace Sys2Proof.Machine

variable {w w' : CmdWord} {i i' : Instr}

/-! ## The decoder as a relation (R74 to R76) -/

/-- The command each operation code stands for, with its operands read from the fields of the word (R74). -/
inductive Decodes (w : CmdWord) : Instr → Prop where
  | init (h : (opField w).toNat = 1) : Decodes w .init
  | count (h : (opField w).toNat = 2) : Decodes w .count
  | compose (h : (opField w).toNat = 3) : Decodes w (.compose (redField w) (greenField w) (blueField w))
  | setrgb (h : (opField w).toNat = 4) : Decodes w (.setrgb (idxField w) (redField w) (greenField w) (blueField w))
  | setpacked (h : (opField w).toNat = 5) : Decodes w (.setpacked (idxField w) (packedField w))
  | render (h : (opField w).toNat = 6) : Decodes w .render
  | clear (h : (opField w).toNat = 7) : Decodes w .clear

/-- The decoder answers a command exactly when the word stands for it. -/
theorem decode_eq_ok : decode w = .ok i ↔ Decodes w i := by
  constructor
  · intro h
    unfold decode at h
    split at h <;> cases h
    exacts [.init ‹_›, .count ‹_›, .compose ‹_›, .setrgb ‹_›, .setpacked ‹_›, .render ‹_›, .clear ‹_›]
  · intro h
    cases h with
    | init h | count h | compose h | setrgb h | setpacked h | render h | clear h => simp [decode, h]

/-- The decoder answers a command for the seven defined codes and no other. -/
theorem decode_isOk : (∃ i, decode w = .ok i) ↔ 1 ≤ (opField w).toNat ∧ (opField w).toNat ≤ 7 := by
  constructor
  · rintro ⟨i, h⟩
    cases decode_eq_ok.mp h with
    | init h | count h | compose h | setrgb h | setpacked h | render h | clear h => omega
  · intro hdef
    simp only [decode_eq_ok]
    obtain h | h | h | h | h | h | h : (opField w).toNat = 1 ∨ (opField w).toNat = 2 ∨ (opField w).toNat = 3 ∨
        (opField w).toNat = 4 ∨ (opField w).toNat = 5 ∨ (opField w).toNat = 6 ∨ (opField w).toNat = 7 := by omega
    exacts [⟨_, .init h⟩, ⟨_, .count h⟩, ⟨_, .compose h⟩, ⟨_, .setrgb h⟩, ⟨_, .setpacked h⟩, ⟨_, .render h⟩,
      ⟨_, .clear h⟩]

/-- A code is reserved exactly when the decoder refuses the word by that code (R75). -/
theorem reserved_iff_decode_error :
    (opField w = 0 ∨ 8 ≤ (opField w).toNat) ↔ decode w = .error (.reservedOpcode (opField w)) := by
  have hreserved : (opField w = 0 ∨ 8 ≤ (opField w).toNat) ↔ ¬∃ i, decode w = .ok i := by
    rw [decode_isOk, ← BitVec.toNat_inj, BitVec.ofNat_eq_ofNat, BitVec.toNat_zero]
    omega
  rw [hreserved]
  cases hd : decode w with
  | ok i => simp
  | error e => simp [decode_error hd]

/-- A word that decodes bears the operation code that the encoder writes for its command. -/
theorem opField_encode_of_decode (h : decode w = .ok i) : opField (encode i) = opField w := by
  apply BitVec.eq_of_toNat_eq
  cases decode_eq_ok.mp h with
  | init hop | count hop | compose hop | setrgb hop | setpacked hop | render hop | clear hop =>
    rw [hop, encode, opField_assembleWord]
    rfl

/-- The decoder reads the encoder's word as its command. -/
theorem decode_encode (i : Instr) : decode (encode i) = .ok i := by
  cases i with
  | init | count | render | clear => rfl
  | compose red green blue => simp [encode, decode]
  | setrgb idx red green blue => simp [encode, decode]
  | setpacked idx c => simp [encode, decode]

/-! ## The opcode map (R74) -/

/-- A word is put together from its three fields (R71). -/
theorem assembleWord_fields (w : CmdWord) : assembleWord (opField w) (idxField w) (packedField w) = w := by
  have hhigh : opField w ++ idxField w = w.extractLsb' 24 24 :=
    BitVec.extractLsb'_append_extractLsb'_eq_extractLsb' rfl
  rw [assembleWord, hhigh]
  exact BitVec.extractLsb'_append_extractLsb' (w := 24) (len := 24)

/-- A word selects a row of the map exactly when it bears the row's operation code. -/
theorem selectedBy_iff {row : OpcodeRow} (hrow : row ∈ opcodeTable) :
    row.selectedBy w = true ↔ opField w = opField row.matchBits := by
  have hmask : ∀ row ∈ opcodeTable, row.mask = 0xFF0000000000 := by decide
  have hmatch : ∀ row ∈ opcodeTable, row.matchBits = assembleWord (opField row.matchBits) 0 0 := by decide
  have hand : w &&& 0xFF0000000000 = assembleWord (opField w) 0 0 := by
    conv_lhs => rw [← assembleWord_fields w]
    exact Laws.opcode_mask _ _ _
  rw [OpcodeRow.selectedBy, hmask row hrow, hand, beq_iff_eq]
  constructor
  · intro h
    rw [← h, opField_assembleWord]
  · intro h
    rw [h, ← hmatch row hrow]

/-- Every command's word selects the row of its mnemonic and no other. -/
theorem encode_selects (i : Instr) : Laws.TableRow.Statement i := by
  cases i with
  | init => exact Laws.TableRow.init
  | count => exact Laws.TableRow.count
  | compose red green blue => exact Laws.TableRow.compose red green blue
  | setrgb idx red green blue => exact Laws.TableRow.setrgb idx red green blue
  | setpacked idx c => exact Laws.TableRow.setpacked idx c
  | render => exact Laws.TableRow.render
  | clear => exact Laws.TableRow.clear

/-- The rows of the map bear different mnemonics. -/
theorem opcodeTable_mnemonic_inj :
    ∀ row ∈ opcodeTable, ∀ row' ∈ opcodeTable, row.mnemonic = row'.mnemonic → row = row' := by
  decide

/-- A word that decodes selects exactly the row of its command's mnemonic. -/
theorem selectedBy_iff_mnemonic (h : decode w = .ok i) {row : OpcodeRow} (hrow : row ∈ opcodeTable) :
    row.selectedBy w = true ↔ i.mnemonic = row.mnemonic := by
  obtain ⟨hone, -⟩ := encode_selects i
  obtain ⟨own, hfilter, hm⟩ := List.map_eq_singleton_iff.mp hone
  have hown : own ∈ opcodeTable := List.mem_of_mem_filter (hfilter ▸ List.mem_singleton_self own)
  have hsel : row ∈ opcodeTable.filter (·.selectedBy (encode i)) ↔ row = own := by rw [hfilter, List.mem_singleton]
  rw [List.mem_filter, and_iff_right hrow] at hsel
  rw [selectedBy_iff hrow, ← opField_encode_of_decode h, ← selectedBy_iff hrow, hsel]
  constructor
  · rintro rfl
    exact hm.symm
  · intro h'
    exact opcodeTable_mnemonic_inj row hrow own hown (h'.symm.trans hm.symm)

/-- The operation code alone selects the operation (R76). -/
theorem mnemonic_of_opField (hop : opField w = opField w') (h : decode w = .ok i) (h' : decode w' = .ok i') :
    i.mnemonic = i'.mnemonic := by
  rw [← opField_encode_of_decode h, ← opField_encode_of_decode h'] at hop
  have hrows : opcodeTable.filter (·.selectedBy (encode i)) = opcodeTable.filter (·.selectedBy (encode i')) :=
    List.filter_congr fun row hrow => Bool.eq_iff_iff.mpr (by rw [selectedBy_iff hrow, selectedBy_iff hrow, hop])
  obtain ⟨hi, -⟩ := encode_selects i
  obtain ⟨hi', -⟩ := encode_selects i'
  rw [hrows, hi'] at hi
  exact (List.singleton_injective hi).symm

/-! ## The fields (R72, R73, R78) -/

theorem redField_eq_packedField (w : CmdWord) : redField w = (packedField w).extractLsb' 16 8 :=
  (BitVec.extractLsb'_extractLsb'_of_le (by decide)).symm

theorem greenField_eq_packedField (w : CmdWord) : greenField w = (packedField w).extractLsb' 8 8 :=
  (BitVec.extractLsb'_extractLsb'_of_le (by decide)).symm

theorem blueField_eq_packedField (w : CmdWord) : blueField w = (packedField w).extractLsb' 0 8 :=
  (BitVec.extractLsb'_extractLsb'_of_le (by decide)).symm

/-- A field of a word is the quotient and remainder that cut it out of the word's value. -/
theorem extractLsb'_toNat_eq_div_mod (w : CmdWord) (start len : Nat) :
    (w.extractLsb' start len).toNat = w.toNat / 2 ^ start % 2 ^ len := by
  rw [BitVec.extractLsb'_toNat, Nat.shiftRight_eq_div_pow]

theorem idxField_toNat (w : CmdWord) : (idxField w).toNat = w.toNat / 2 ^ 24 % 2 ^ 16 :=
  extractLsb'_toNat_eq_div_mod w 24 16

theorem redField_toNat (w : CmdWord) : (redField w).toNat = w.toNat / 2 ^ 16 % 2 ^ 8 :=
  extractLsb'_toNat_eq_div_mod w 16 8

theorem greenField_toNat (w : CmdWord) : (greenField w).toNat = w.toNat / 2 ^ 8 % 2 ^ 8 :=
  extractLsb'_toNat_eq_div_mod w 8 8

theorem blueField_toNat (w : CmdWord) : (blueField w).toNat = w.toNat % 2 ^ 8 := by
  rw [blueField, extractLsb'_toNat_eq_div_mod, Nat.pow_zero, Nat.div_one]

theorem packedField_toNat (w : CmdWord) : (packedField w).toNat = w.toNat % 2 ^ 24 := by
  rw [packedField, extractLsb'_toNat_eq_div_mod, Nat.pow_zero, Nat.div_one]

/-- `MARK` sets bit 7 and keeps the seven bits below it, as a number (R106). -/
theorem mark_toNat (v : Byte) : (mark v).toNat = 128 + v.toNat % 128 := by
  have hmark : mark v = (1 : BitVec 1) ++ v.extractLsb' 0 7 := by
    apply BitVec.eq_of_getLsbD_eq
    intro k hk
    rw [BitVec.getLsbD_append]
    by_cases h7 : k < 7
    · simp [mark_getLsbD v h7, h7]
    · obtain rfl : k = 7 := by omega
      simp [mark_bit7]
  have hlow : (v.extractLsb' 0 7).toNat = v.toNat % 128 := by simp [BitVec.extractLsb'_toNat]
  rw [hmark, BitVec.toNat_append, ← Nat.shiftLeft_add_eq_or_of_lt (BitVec.isLt _), hlow]
  rfl

/-! ## SETCOLOR (R87) -/

/-- SETPACKED of the low 24 bits of a word marks the word's three sent bytes. -/
theorem packedWord_extractLsb' (w : Word) : packedWord (w.extractLsb' 0 24) =
    wireWord (Channel.red.byteOf w) (Channel.green.byteOf w) (Channel.blue.byteOf w) := by
  rw [packedWord, BitVec.extractLsb'_extractLsb'_of_le (by decide),
    BitVec.extractLsb'_extractLsb'_of_le (by decide), BitVec.extractLsb'_extractLsb'_of_le (by decide)]
  rfl

/-- SETPACKED of a composed word stores the word as it is: its bytes are marked already. -/
theorem packedWord_wireWord (red green blue : Byte) :
    packedWord ((wireWord red green blue).extractLsb' 0 24) = wireWord red green blue := by
  rw [packedWord_extractLsb']
  simp [wireWord, mark_mark]

theorem exec_setcolor (idx r g b : Nat) (s : State) :
    exec (AsmLine.setcolor idx r g b).command s = exec (AsmLine.setrgb idx r g b).command s := by
  rw [AsmLine.command, AsmLine.command, exec_of_storesAt (.setpacked _ _), exec_of_storesAt (.setrgb _ _ _ _),
    packedWord_wireWord]

/-! ## The frame (R80 to R83) -/

theorem wireBytes_append (a b : List Event) : wireBytes (a ++ b) = wireBytes a ++ wireBytes b :=
  List.filterMap_append

theorem wireBytes_emitBytes (l : List Byte) : wireBytes (emitBytes l) = l := by
  induction l with
  | nil => rfl
  | cons b l ih => exact congrArg (b :: ·) ih

theorem wireBytes_delay (p : Params) : wireBytes [delayEvent p] = [] := rfl

/-- Every payload byte of written words has its marker bit (R82). -/
theorem markerBit_payload {ws : List Word} (h : ∀ w ∈ ws, marked w = true) :
    ∀ b ∈ ws.flatMap bytesOf, markerBit b = true := by
  intro b hb
  obtain ⟨w, hw, hb⟩ := List.mem_flatMap.mp hb
  simp only [bytesOf, List.mem_cons, List.not_mem_nil, or_false] at hb
  rcases hb with rfl | rfl | rfl <;> exact markerBit_of_marked (h w hw) _

theorem markerBit_iff (b : Byte) : markerBit b = true ↔ 0x80 ≤ b.toNat := by
  rw [markerBit, BitVec.msb_eq_decide, decide_eq_true_iff]

theorem payload_length (ws : List Word) : (ws.flatMap bytesOf).length = 3 * ws.length := by
  simp [List.length_flatMap, Nat.mul_comm]

theorem countP_markerBit_zeros (k : Nat) : (zeros k).countP markerBit = 0 := by
  simp [zeros, List.countP_replicate, markerBit]

/-- A frame of written words is cut at its marker bits into header, payload and trailer (R82). -/
theorem cutFrame_frame (p : Params) {ws : List Word} (h : ∀ w ∈ ws, marked w = true) :
    cutFrame (frame p ws) = (zeros Config.headerLen, ws.flatMap bytesOf, zeros p.trailerLen) := by
  have htake : (zeros p.trailerLen).takeWhile markerBit = [] := by
    simp [zeros, markerBit]
  have hdrop : (zeros p.trailerLen).dropWhile markerBit = zeros p.trailerLen := by
    simp [zeros, markerBit]
  have hlen : (zeros Config.headerLen).length = Config.headerLen := List.length_replicate
  rw [cutFrame, frame, List.append_assoc, List.take_left' hlen, List.drop_left' hlen,
    List.takeWhile_append_of_pos (markerBit_payload h), List.dropWhile_append_of_pos (markerBit_payload h),
    htake, hdrop, List.append_nil]

theorem countP_markerBit_frame (p : Params) {ws : List Word} (h : ∀ w ∈ ws, marked w = true) :
    (frame p ws).countP markerBit = 3 * ws.length := by
  rw [frame, List.countP_append, List.countP_append, countP_markerBit_zeros, countP_markerBit_zeros,
    List.countP_eq_length.mpr (markerBit_payload h), payload_length, Nat.zero_add, Nat.add_zero]

/-- A written word is determined by its three sent bytes (R81). -/
theorem eq_of_bytesOf {v w : Word} (hv : marked v = true) (hw : marked w = true) (h : bytesOf v = bytesOf w) :
    v = w := by
  simp only [bytesOf, List.cons.injEq, and_true] at h
  obtain ⟨hg, hr, hb⟩ := h
  rw [← pack_byteOf_of_marked hv, hg, hr, hb, pack_byteOf_of_marked hw]

/-- The payload determines the written words. -/
theorem eq_of_payload {ws vs : List Word} (hws : ∀ w ∈ ws, marked w = true) (hvs : ∀ v ∈ vs, marked v = true)
    (h : ws.flatMap bytesOf = vs.flatMap bytesOf) : ws = vs := by
  have hlen : ws.length = vs.length := by
    have := congrArg List.length h
    rw [payload_length, payload_length] at this
    omega
  induction ws generalizing vs with
  | nil => exact (List.eq_nil_of_length_eq_zero hlen.symm).symm
  | cons w ws ih =>
    cases vs with
    | nil => simp at hlen
    | cons v vs =>
      obtain ⟨hw, hws⟩ := List.forall_mem_cons.mp hws
      obtain ⟨hv, hvs⟩ := List.forall_mem_cons.mp hvs
      obtain ⟨hfst, hrest⟩ := List.append_inj h rfl
      rw [eq_of_bytesOf hw hv hfst, ih hws hvs hrest (by simpa using hlen)]

/-- Without pixels a frame is header and trailer alone (R83, R139). -/
theorem frame_nil (p : Params) : frame p [] = List.replicate (4 + p.trailerLen) 0 := by
  rw [frame, List.flatMap_nil, List.append_nil]
  exact List.replicate_append_replicate

/-! ## One render cycle (R132) -/

theorem Memory.triplet_of_read {m : Memory} {i : Nat} {w : Word} (h : m.read i = some w) (d : Nat) :
    m.triplet i d = (bytesOf w, d) := by
  simp [Memory.triplet, Memory.byteAt_of_read h, bytesOf]

/-- The payload of a run of written pixels is their words' bytes, and no free value is drawn. -/
theorem Memory.payload_of_reads {m : Memory} {ws : List Word} {i : Nat}
    (h : ∀ k (hk : k < ws.length), m.read (i + k) = some ws[k]) (d : Nat) :
    m.payload ws.length i d = (ws.flatMap bytesOf, d) := by
  induction ws generalizing i with
  | nil => rfl
  | cons w ws ih =>
    have hfst : m.read i = some w := h 0 (Nat.zero_lt_succ _)
    have hrest : ∀ k (hk : k < ws.length), m.read (i + 1 + k) = some ws[k] := fun k hk => by
      rw [Nat.add_right_comm]
      exact h (k + 1) (Nat.succ_lt_succ hk)
    simp [Memory.payload, Memory.triplet_of_read hfst, ih hrest]

/-- RENDER of a written buffer appends its frame and the settle delay to the trace and does nothing else. -/
theorem State.bigRender_of_holds {s : State} {ws : List Word} (h : s.holds ws) :
    s.bigRender = { s with out := s.out ++ emitBytes (frame s.params ws) ++ [delayEvent s.params] } := by
  obtain ⟨hlen, hread⟩ := h
  have hpay : s.pix.payload s.params.pixels 0 s.draws = (ws.flatMap bytesOf, s.draws) := by
    rw [← hlen]
    exact Memory.payload_of_reads (fun k hk => by rw [Nat.zero_add]; exact hread k hk) _
  rw [State.bigRender, hpay]
  rfl

/-! ## The obligations of the family -/

/-- Settles O1: the bytes of a word spell the word again, and `decode_encode` goes command by command. -/
theorem decodeOfEncodeIsTheCommand : Obligations.DecodeOfEncodeIsTheCommand := by
  intro i rest _
  refine ⟨decode_encode i, ?_⟩
  rw [encodeBytes, decodeBytes_bytesOfWord, decode_encode]
  rfl

/-- Settles O2: a row is selected by its operation code, and every row's code is one the decoder knows. -/
theorem opcodeMapSelectsTheDecodedCommand : Obligations.OpcodeMapSelectsTheDecodedCommand := by
  intro w row hrow
  constructor
  · intro hsel
    have hcode : ∀ row ∈ opcodeTable, 1 ≤ (opField row.matchBits).toNat ∧ (opField row.matchBits).toNat ≤ 7 := by
      decide
    have hdef := hcode row hrow
    rw [← (selectedBy_iff hrow).mp hsel] at hdef
    obtain ⟨i, hi⟩ := decode_isOk.mpr hdef
    exact ⟨i, hi, (selectedBy_iff_mnemonic hi hrow).mp hsel⟩
  · rintro ⟨i, hi, hm⟩
    exact (selectedBy_iff_mnemonic hi hrow).mpr hm

/-- Settles O3: the decoder refuses the reserved codes alone, and an idle block passes the refusal on. -/
theorem reservedOpcodeIsRefusedByName : Obligations.ReservedOpcodeIsRefusedByName := fun _ =>
  ⟨reserved_iff_decode_error, fun _ _ hr hi hc hop =>
    step_of_reserved hr hi hc (reserved_iff_decode_error.mp hop)⟩

/-- Settles O4: the command is read from the fields it uses. -/
theorem ignoredFieldsHaveNoEffect : Obligations.IgnoredFieldsHaveNoEffect := by
  refine ⟨fun w w' hop => ⟨?_, fun h3 hdata => ?_, fun h1 h7 => ?_⟩, ?_, fun red green blue => by simp [encode]⟩
  · rintro (h | h | h | h)
    · rw [decode_eq_ok.mpr (.init h), decode_eq_ok.mpr (.init (hop ▸ h))]
    · rw [decode_eq_ok.mpr (.count h), decode_eq_ok.mpr (.count (hop ▸ h))]
    · rw [decode_eq_ok.mpr (.render h), decode_eq_ok.mpr (.render (hop ▸ h))]
    · rw [decode_eq_ok.mpr (.clear h), decode_eq_ok.mpr (.clear (hop ▸ h))]
  · rw [decode_eq_ok.mpr (.compose h3), decode_eq_ok.mpr (.compose (hop ▸ h3))]
    simp only [redField_eq_packedField, greenField_eq_packedField, blueField_eq_packedField, hdata]
  · obtain ⟨i, hi⟩ := decode_isOk.mpr ⟨h1, h7⟩
    obtain ⟨i', hi'⟩ := decode_isOk.mpr (hop ▸ And.intro h1 h7)
    exact ⟨i, i', hi, hi', mnemonic_of_opField hop hi hi'⟩
  · rintro i (rfl | rfl | rfl | rfl) <;> simp [encode]

/-- Settles O5: each operand the decoder answers is a field, and each field a quotient and remainder. -/
theorem operandsAreUnsignedFieldsOfTheWord : Obligations.OperandsAreUnsignedFieldsOfTheWord := by
  refine ⟨fun w idx red green blue h => ?_, fun w red green blue h => ?_, fun w idx c h => ?_,
    fun red green blue => ?_⟩
  · cases decode_eq_ok.mp h
    exact ⟨idxField_toNat w, redField_toNat w, greenField_toNat w, blueField_toNat w⟩
  · cases decode_eq_ok.mp h
    exact ⟨redField_toNat w, greenField_toNat w, blueField_toNat w⟩
  · cases decode_eq_ok.mp h
    exact ⟨idxField_toNat w, packedField_toNat w⟩
  · simp [bytesOf_wireWord, mark_toNat]

/-- Settles O7: assembling encodes the line's command when the operands are in range, and SETCOLOR stores the word
that SETRGB stores. -/
theorem assembledLineDecodesToItsCommand : Obligations.AssembledLineDecodesToItsCommand := by
  refine ⟨fun l => ⟨fun h => ?_, fun h => ?_⟩, fun idx r g b s _ => ⟨⟨_, rfl⟩, exec_setcolor idx r g b s⟩⟩
  · simp [AsmLine.assemble, h]
  · exact ⟨encode l.command, by simp [AsmLine.assemble, h], decode_encode _⟩

/-- Settles O51: the payload is the run of bytes with the marker bit. -/
theorem frameIsCutWithoutKnowingN : Obligations.FrameIsCutWithoutKnowingN := by
  intro p ws h
  refine ⟨fun b hb => (markerBit_iff b).mp (markerBit_payload h b hb), rfl, cutFrame_frame p h, ?_⟩
  rw [pixelCountOfFrame, countP_markerBit_frame p h, Nat.mul_div_cancel_left _ (by decide)]

/-- Settles O52: equal frames of one instance have equal payloads, and a payload determines its words. -/
theorem frameDeterminesTheBuffer : Obligations.FrameDeterminesTheBuffer := by
  intro p ws vs hws hvs h
  exact eq_of_payload hws hvs (List.append_cancel_left (List.append_cancel_right h))

/-- Settles O55: RENDER of a written buffer appends the frame's bytes and then the delay. -/
theorem renderCyclePutsOneFrameOnTheWire : Obligations.RenderCyclePutsOneFrameOnTheWire := by
  intro s ws h
  have hlen : ws.length = s.params.pixels := h.1
  rw [State.bigStep, State.bigRender_of_holds h]
  refine ⟨?_, by simp [delayEvent], ?_⟩
  · simp [wireBytes_append, wireBytes_emitBytes, wireBytes_delay]
  · simp [emitBytes, frame_length, hlen, frameLength, Nat.add_assoc]

/-- Settles O6: each word by evaluating the decoder. -/
theorem sampleWordsDecodeAsWritten : Obligations.SampleWordsDecodeAsWritten :=
  ⟨rfl, rfl, rfl, rfl, rfl, rfl, rfl, rfl, rfl, rfl⟩

/-- Settles O53: the length adds up over header, payload and trailer; without pixels the payload is empty. -/
theorem frameLengthFormula : Obligations.FrameLengthFormula := by
  intro p ws hlen
  have hframe := frame_length p ws
  refine ⟨by rw [hframe, hlen, frameLength], rfl, fun ht => by rw [hframe, ht, Config.headerLen], fun h0 => ?_⟩
  obtain rfl : ws = [] := List.eq_nil_of_length_eq_zero (hlen.trans h0)
  exact frame_nil p

end Sys2Proof.Machine
end

section
/-! The family `40_pixel_buffer_ops.md`: MARK, the effect of a store and of a returned response on an idle block, and
a pixel's triplet in the frame. -/

namespace Sys2Proof.Machine

variable {s : State}

/-! ## Marked bytes and words (R102, R103, R106) -/

/-- Adding 128 touches bit 7 alone, which `MARK` forces. -/
theorem mark_add_128 (v : Byte) : mark (v + 128) = mark v := by
  apply BitVec.eq_of_toNat_eq
  rw [mark_toNat, mark_toNat, BitVec.toNat_add, show (128 : Byte).toNat = 128 from rfl]
  omega

/-- The word SETPACKED stores is its operand with the three marker bits forced, in place (R103). -/
theorem packedWord_eq_setWidth (c : Packed) : packedWord c = (c ||| 0x808080).setWidth 32 := by
  apply BitVec.eq_of_getLsbD_eq
  intro k hk
  rw [packedWord, pack_getLsbD]
  interval_cases k <;> simp [mark]

/-! ## An accepted store or query (R102 to R105) -/

/-- A store command on an idle block completes: outside the buffer it does nothing, inside it its word is read back
at its index and nothing else changes. -/
theorem exec_store_of_idle {i : Instr} {idx : Index} {w : Word} (hi : StoresAt i idx w) (hb : s.busy = false) :
    ∃ t, exec i s = .next t ∧ (s.params.n ≤ idx → t = s) ∧
      (idx < s.params.n → t = { s with pix := t.pix } ∧ t.pix.read idx.toNat = some w ∧
        ∀ k, k ≠ idx.toNat → t.pix.read k = s.pix.read k) := by
  have hx : exec i s = .next (s.storePixel idx.toNat w) := by
    rw [exec_of_storesAt hi, State.whenIdle_of_idle (s.busy_eq_false.mp hb)]
  obtain ⟨hframe, hother⟩ := exec_store_frame hi hx
  refine ⟨_, hx, fun hge => s.storePixel_of_ge (BitVec.le_def.mp hge) w, fun hlt => ⟨hframe, ?_, hother⟩⟩
  rw [s.read_storePixel (BitVec.lt_def.mp hlt), if_pos rfl]

theorem exec_return_of_idle {i : Instr} {v : Word} (hi : Returns s.params i v) (hb : s.busy = false) :
    exec i s = .next (s.respond v) := by
  rw [exec_of_returns hi, State.whenIdle_of_idle (s.busy_eq_false.mp hb)]

/-! ## A written pixel in the frame (R109) -/

/-- A store into a buffer that holds `ws` replaces one of them. -/
theorem State.holds_storePixel {ws : List Word} (h : s.holds ws) {i : Nat} (hi : i < s.params.pixels) (w : Word) :
    (s.storePixel i w).holds (ws.set i w) := by
  obtain ⟨hlen, hread⟩ := h
  refine ⟨by simpa using hlen, fun k hk => ?_⟩
  rw [List.length_set] at hk
  rw [s.read_storePixel hi, List.getElem_set]
  by_cases hki : k = i
  · rw [if_pos hki, if_pos hki.symm]
  · rw [if_neg hki, if_neg (Ne.symm hki), hread k hk]

/-- The payload from byte `3 * i` on begins with the bytes of word `i`. -/
theorem payload_triplet {ws : List Word} {i : Nat} (h : i < ws.length) :
    ((ws.flatMap bytesOf).drop (3 * i)).take 3 = bytesOf ws[i] := by
  induction ws generalizing i with
  | nil => simp at h
  | cons w ws ih =>
    cases i with
    | zero => rfl
    | succ i => exact ih (Nat.lt_of_succ_lt_succ h)

/-- The frame's bytes after the header begin, at byte `3 * i`, with the bytes of word `i` (R80, R81). -/
theorem frame_triplet (p : Params) {ws : List Word} {i : Nat} (h : i < ws.length) :
    ((frame p ws).drop (4 + 3 * i)).take 3 = bytesOf ws[i] := by
  have hroom : 3 ≤ ((ws.flatMap bytesOf).drop (3 * i)).length := by
    rw [List.length_drop, payload_length]
    omega
  have hdrop : (frame p ws).drop 4 = ws.flatMap bytesOf ++ zeros p.trailerLen := rfl
  rw [← List.drop_drop, hdrop, List.drop_append_of_le_length (by rw [payload_length]; omega),
    List.take_append_of_le_length hroom, payload_triplet h]

/-! ## The obligations of the family -/

/-- Settles O9: SETRGB stores its wire word, and the decoder reads code 4 as SETRGB of the word's fields. -/
theorem setrgbStoresTheMarkedWord : Obligations.SetrgbStoresTheMarkedWord :=
  ⟨fun _ h => decode_eq_ok.mpr (.setrgb h),
    fun _ idx red green blue hb => exec_store_of_idle (.setrgb idx red green blue) hb⟩

/-- Settles O10: SETPACKED stores its operand with the marker bits forced in place. -/
theorem setpackedStoresTheMarkedOperand : Obligations.SetpackedStoresTheMarkedOperand := by
  refine ⟨fun _ h => decode_eq_ok.mpr (.setpacked h), fun _ idx c hb => ?_⟩
  rw [← packedWord_eq_setWidth]
  exact exec_store_of_idle (.setpacked idx c) hb

/-- Settles O13: COMPOSE returns a word whose bytes are marked already, so SETPACKED of it stores that word. -/
theorem composeThenSetpackedEqualsSetrgb : Obligations.ComposeThenSetpackedEqualsSetrgb := by
  intro s t u idx red green blue hs hu hx
  have hcompose := exec_return_of_idle (.compose red green blue) hs
  obtain rfl : s.respond (wireWord red green blue) = t := by simpa [hcompose] using hx
  obtain ⟨v, hset, hge, hlt⟩ := exec_store_of_idle (.setrgb idx red green blue) hu
  refine ⟨v, ?_, hset, hge, fun h => (hlt h).2⟩
  rw [← hset, exec_of_storesAt (.setpacked _ _), exec_of_storesAt (.setrgb _ _ _ _), State.respond_rsp,
    packedWord_wireWord]

/-- Settles O17: the store replaces one word, RENDER appends the frame of the words, and the frame shows word `idx`
at its triplet. -/
theorem frameShowsTheWrittenPixel : Obligations.FrameShowsTheWrittenPixel := by
  intro s t ws idx red green blue hb hold hidx hx
  have hi : idx.toNat < s.params.pixels := BitVec.lt_def.mp hidx
  rw [exec, execSetrgb_of_idle (s.busy_eq_false.mp hb)] at hx
  cases hx
  have hnew := State.holds_storePixel hold hi (wireWord red green blue)
  refine ⟨wireWord red green blue, hnew, by rw [State.bigRender_of_holds hnew]; rfl, ?_⟩
  rw [frame_triplet _ (by rwa [List.length_set, hold.1]), List.getElem_set_self, bytesOf_wireWord]
  rfl

/-- Settles O8: bit by bit and as a number. -/
theorem markForcesBitSevenAndKeepsTheRest : Obligations.MarkForcesBitSevenAndKeepsTheRest := fun v =>
  ⟨mark_bit7 v, fun _ hk => mark_getLsbD v hk, mark_toNat v, mark_mark v, mark_add_128 v⟩

/-- Settles O11: COMPOSE returns the wire word of its operands. -/
theorem composeReturnsTheMarkedWord : Obligations.ComposeReturnsTheMarkedWord := by
  refine ⟨fun _ h => decode_eq_ok.mpr (.compose h), ?_⟩
  rintro s red green blue _ rfl
  exact ⟨eq_of_beq (marked_wireWord red green blue), exec_return_of_idle (.compose red green blue)⟩

/-- Settles O12: COUNT returns `zext_32(N)`, and no step changes the parameters. -/
theorem countReturnsThePixelCount : Obligations.CountReturnsThePixelCount :=
  ⟨fun _ h => decode_eq_ok.mpr (.count h),
    fun _ => ⟨exec_return_of_idle .count, fun _ h => congrArg Params.n (step_params h)⟩⟩

end Sys2Proof.Machine
end

section
/-! The family `41_driver_ops.md`: the rest of an operation from any position of its sequencer, which every clock
keeps, and with it the whole effect of INIT, RENDER and CLEAR under any services. -/

namespace Sys2Proof.Machine

variable {s t : State}

/-! ## The rest of an operation as one transition (R162 to R167) -/

/-- A byte, then the bytes that follow from the count of free values it leaves. -/
def consByte (b : Byte × Nat) (rest : Nat → List Byte × Nat) : List Byte × Nat :=
  (b.1 :: (rest b.2).1, (rest b.2).2)

/-- The payload from byte `j` of pixel `i` on, with `count` pixels after it, and the count of free values drawn. -/
def Memory.payloadFrom (m : Memory) (count i : Nat) : Channel → Nat → List Byte × Nat
  | .green => m.payload (count + 1) i
  | .red => fun d => consByte (m.byteAt i .red d) fun d => consByte (m.byteAt i .blue d) (m.payload count (i + 1))
  | .blue => fun d => consByte (m.byteAt i .blue d) (m.payload count (i + 1))

/-- The last bytes of a render cycle and its delay, with the count of free values after them. -/
def State.sendRest (s : State) (bytes : List Byte) (draws : Nat) : State :=
  { s with out := s.out ++ emitBytes bytes ++ [delayEvent s.params], draws := draws }

/-- What the sequencer does from the issue half of `q` to the end of the operation, as one transition. -/
def State.finishFrom (s : State) : Seq → State
  | .idle => s
  | .cfg => s.bigInit
  | .clr i => (s.clearFrom (s.params.pixels - i) i).bigRender
  | .hdr k =>
    let body := s.pix.payload s.params.pixels 0 s.draws
    s.sendRest (zeros (Config.headerLen - k) ++ body.1 ++ zeros s.params.trailerLen) body.2
  | .pay i j =>
    let body := s.pix.payloadFrom (s.params.pixels - (i + 1)) i j s.draws
    s.sendRest (body.1 ++ zeros s.params.trailerLen) body.2
  | .trl k => s.sendRest (zeros (s.params.trailerLen - k)) s.draws
  | .settle => s.sendRest [] s.draws

/-- The state with the sequencer idle and no pulse on the ports. -/
def State.atRest (s : State) : State := { s.endPulses with seq := .idle, wait := false }

/-- The step whose issue half comes next: a call that is outstanding has been issued already. -/
def State.pending (s : State) : Seq := if s.wait then Seq.after s.params s.seq else s.seq

/-- The state that the running operation leads to. -/
def State.finish (s : State) : State := s.atRest.finishFrom s.pending

theorem State.pending_of_wait (h : s.wait = true) : s.pending = Seq.after s.params s.seq := if_pos h

theorem State.pending_of_ready (h : s.wait = false) : s.pending = s.seq := by simp [State.pending, h]

theorem State.finish_of_wait (h : s.wait = true) :
    s.finish = s.atRest.finishFrom (Seq.after s.params s.seq) := by
  rw [State.finish, State.pending_of_wait h]

theorem State.finish_of_ready (h : s.wait = false) : s.finish = s.atRest.finishFrom s.seq := by
  rw [State.finish, State.pending_of_ready h]

/-! ### One step less -/

theorem zeros_sub {n k : Nat} (h : k < n) : zeros (n - k) = 0 :: zeros (n - (k + 1)) := by
  rw [show n - k = n - (k + 1) + 1 by omega]
  rfl

/-- Sending the first byte first. -/
theorem State.sendRest_cons (s : State) (b : Byte) (l : List Byte) (d d' : Nat) :
    s.sendRest (b :: l) d' = ({ s with out := s.out ++ [.tx b], draws := d } : State).sendRest l d' := by
  simp [State.sendRest, emitBytes]

/-- Where pixel `i` would begin: its bytes and those after it, or the trailer when there is no pixel left. -/
theorem State.finishFrom_payload (s : State) (i : Nat) :
    s.finishFrom (if i < s.params.pixels then .pay i .green else .trl 0) =
      s.sendRest ((s.pix.payload (s.params.pixels - i) i s.draws).1 ++ zeros s.params.trailerLen)
        (s.pix.payload (s.params.pixels - i) i s.draws).2 := by
  split
  · rw [show s.params.pixels - i = s.params.pixels - (i + 1) + 1 by omega]
    rfl
  · rw [show s.params.pixels - i = 0 by omega]
    rfl

theorem State.finishFrom_hdr (s : State) (k : Nat) :
    s.finishFrom (.hdr k) =
      s.sendRest (zeros (Config.headerLen - k) ++ (s.pix.payload s.params.pixels 0 s.draws).1 ++
        zeros s.params.trailerLen) (s.pix.payload s.params.pixels 0 s.draws).2 := rfl

theorem State.finishFrom_after_hdr (s : State) {k : Nat} (hk : k < Config.headerLen) :
    s.finishFrom (.hdr k) =
      ({ s with out := s.out ++ [.tx 0] } : State).finishFrom (Seq.after s.params (.hdr k)) := by
  rw [State.finishFrom_hdr, zeros_sub hk, List.cons_append, List.cons_append, s.sendRest_cons 0 _ s.draws,
    Seq.after]
  by_cases hnext : k + 1 < Config.headerLen
  · rw [if_pos hnext]
    rfl
  · rw [if_neg hnext, show Config.headerLen - (k + 1) = 0 by omega]
    exact (State.finishFrom_payload { s with out := s.out ++ [.tx 0] } 0).symm

/-- A triplet is its green byte, its red byte and its blue byte, as `Memory.payload` writes it out. -/
theorem State.finishFrom_after_pay (s : State) (i : Nat) (j : Channel) :
    s.finishFrom (.pay i j) =
      ({ s with out := s.out ++ [.tx (s.pix.byteAt i j s.draws).1], draws := (s.pix.byteAt i j s.draws).2 } :
        State).finishFrom (Seq.after s.params (.pay i j)) := by
  cases j with
  | green => exact s.sendRest_cons _ _ _ _
  | red => exact s.sendRest_cons _ _ _ _
  | blue => exact (s.sendRest_cons _ _ _ _).trans (State.finishFrom_payload _ (i + 1)).symm

theorem State.finishFrom_trl (s : State) (k : Nat) :
    s.finishFrom (.trl k) = s.sendRest (zeros (s.params.trailerLen - k)) s.draws := rfl

theorem State.finishFrom_after_trl (s : State) {k : Nat} (hk : k < s.params.trailerLen) :
    s.finishFrom (.trl k) =
      ({ s with out := s.out ++ [.tx 0] } : State).finishFrom (Seq.after s.params (.trl k)) := by
  rw [State.finishFrom_trl, zeros_sub hk, s.sendRest_cons 0 _ s.draws, Seq.after]
  by_cases hnext : k + 1 < s.params.trailerLen
  · rw [if_pos hnext]
    rfl
  · rw [if_neg hnext, show s.params.trailerLen - (k + 1) = 0 by omega]
    rfl

theorem State.finishFrom_after_settle (s : State) :
    s.finishFrom .settle =
      ({ s with out := s.out ++ [delayEvent s.params] } : State).finishFrom (Seq.after s.params .settle) := by
  simp [State.finishFrom, State.sendRest, emitBytes, Seq.after]

theorem State.finishFrom_clr (s : State) (i : Nat) :
    s.finishFrom (.clr i) = (s.clearFrom (s.params.pixels - i) i).bigRender := rfl

theorem State.finishFrom_after_clr (s : State) {i : Nat} (hi : i < s.params.pixels) :
    s.finishFrom (.clr i) = (s.storePixel i zeroColour).finishFrom (Seq.after s.params (.clr i)) := by
  rw [State.finishFrom_clr, show s.params.pixels - i = s.params.pixels - (i + 1) + 1 by omega, State.clearFrom,
    Seq.after]
  by_cases hnext : i + 1 < s.params.pixels
  · rw [if_pos hnext, State.finishFrom_clr, State.storePixel_params]
  · rw [if_neg hnext, show s.params.pixels - (i + 1) = 0 by omega]
    rfl

/-- The Clear cycle from its beginning, without pixels too. -/
theorem State.finishFrom_clearStart (s : State) : s.finishFrom (Seq.clearStart s.params) = s.bigClear := by
  unfold Seq.clearStart State.bigClear
  split
  · rfl
  · rw [show s.params.pixels = 0 by omega]
    rfl

/-! ### Every clock keeps it -/

theorem State.atRest_storePixel (s : State) (i : Nat) (w : Word) :
    (s.storePixel i w).atRest = s.atRest.storePixel i w := by
  by_cases hi : i < s.params.pixels
  · rw [s.storePixel_of_lt hi, s.atRest.storePixel_of_lt hi]
    rfl
  · rw [s.storePixel_of_ge (Nat.le_of_not_lt hi), s.atRest.storePixel_of_ge (Nat.le_of_not_lt hi)]

/-- One clock of the running sequencer, waiting or not, leads to the same end. -/
theorem State.tick_finish (hq : s.SeqOk) (hb : s.busy = true) : s.tick.finish = s.finish := by
  have hr := hq.counters
  cases State.tick_cases hb with
  | waits _ _ ht => rw [ht]; rfl
  | completes hw _ ht => rw [ht, State.finish_of_wait hw]; rfl
  | configures hw hc ht =>
    rw [ht, State.finish_of_ready hw, State.finish_of_ready (by simp [hw]), hc]
    exact State.finishFrom_clearStart s.endPulses.configure.atRest
  | clears hw i hc ht =>
    rw [hc] at hr
    rw [ht, State.finish_of_ready hw, State.finish_of_ready (by simp [hw]), hc, s.atRest.finishFrom_after_clr hr]
    exact congrArg (State.finishFrom · _) (s.endPulses.atRest_storePixel i zeroColour)
  | sendsZero hw hc ht =>
    rw [ht, State.finish_of_ready hw, State.finish_of_wait rfl, State.handOver_seq, State.endPulses_seq]
    rcases hc with ⟨k, hc⟩ | ⟨k, hc⟩ <;> rw [hc] at hr ⊢
    · exact (s.atRest.finishFrom_after_hdr hr).symm
    · exact (s.atRest.finishFrom_after_trl hr).symm
  | sendsPixel hw i j hc ht =>
    rw [ht, State.finish_of_ready hw, State.finish_of_wait rfl, State.sendPixelByte_seq, State.endPulses_seq, hc]
    exact (s.atRest.finishFrom_after_pay i j).symm
  | settles hw hc ht =>
    rw [ht, State.finish_of_ready hw, State.finish_of_wait rfl, State.handOver_seq, State.endPulses_seq, hc]
    exact s.atRest.finishFrom_after_settle.symm

/-! ## Positions in range (R26, R160) -/

theorem State.SeqOk.of_fields (h : s.SeqOk) (hparams : t.params = s.params) (hseq : t.seq = s.seq)
    (hwait : t.wait = s.wait) : t.SeqOk := by
  obtain ⟨hcount, hhand⟩ := h
  constructor <;> simpa only [hparams, hseq, hwait]

/-- A position in range with nothing outstanding. -/
theorem State.seqOk_of_ready (hr : s.seq.inRange s.params) (hw : s.wait = false) : s.SeqOk :=
  ⟨hr, by simp [hw]⟩

/-- Where one clock of the running sequencer leaves `SEQ` and `WAIT`. -/
inductive ControlCase (s t : State) : Prop where
  | stays (hw : s.wait = true) (hd : s.serviceDone = false) (hseq : t.seq = s.seq) (hwait : t.wait = true)
  | completes (hw : s.wait = true) (hd : s.serviceDone = true) (hseq : t.seq = Seq.after s.params s.seq)
      (hwait : t.wait = false)
  | passes (hw : s.wait = false) (hq : s.seq.isHandshake = false) (hseq : t.seq = Seq.after s.params s.seq)
      (hwait : t.wait = false)
  | issues (hw : s.wait = false) (hq : s.seq.isHandshake = true) (hseq : t.seq = s.seq) (hwait : t.wait = true)

theorem State.tick_control (hb : s.busy = true) : ControlCase s s.tick := by
  cases State.tick_cases hb with
  | waits hw hd ht => exact .stays hw hd (by simp [ht]) (by simp [ht, hw])
  | completes hw hd ht => exact .completes hw hd (by simp [ht]) (by simp [ht])
  | configures hw hq ht =>
    exact .passes hw (by simp [hq, Seq.isHandshake]) (by simp [ht, hq, Seq.after]) (by simp [ht, hw])
  | clears hw i hq ht => exact .passes hw (by simp [hq, Seq.isHandshake]) (by simp [ht, hq]) (by simp [ht, hw])
  | sendsZero hw hq ht =>
    refine .issues hw ?_ (by simp [ht]) (by simp [ht])
    rcases hq with ⟨k, hq⟩ | ⟨k, hq⟩ <;> simp [hq, Seq.isHandshake]
  | sendsPixel hw i j hq ht => exact .issues hw (by simp [hq, Seq.isHandshake]) (by simp [ht]) (by simp [ht])
  | settles hw hq ht => exact .issues hw (by simp [hq, Seq.isHandshake]) (by simp [ht]) (by simp [ht])

theorem State.SeqOk.tick (h : s.SeqOk) (hp : s.params.wellFormed = true) (hb : s.busy = true) : s.tick.SeqOk := by
  have hnext := Seq.inRange_after hp h.counters
  have hparams := State.tick_params hb
  cases State.tick_control hb with
  | stays hw _ hseq hwait => exact h.of_fields hparams hseq (hwait.trans hw.symm)
  | completes _ _ hseq hwait => exact State.seqOk_of_ready (by rwa [hseq, hparams]) hwait
  | passes _ _ hseq hwait => exact State.seqOk_of_ready (by rwa [hseq, hparams]) hwait
  | issues _ hq hseq _ => exact ⟨by rw [hseq, hparams]; exact h.counters, fun _ => by rwa [hseq]⟩

/-- An idle sequencer waits for nothing. -/
theorem State.SeqOk.wait_of_idle (h : s.SeqOk) (hi : s.seq = .idle) : s.wait = false := by
  have hhand := h.waiting
  simpa [hi, Seq.isHandshake] using hhand

/-- An idle block has nothing left to do. -/
theorem State.finish_of_idle (h : s.SeqOk) (hi : s.seq = .idle) : s.finish = s.atRest := by
  rw [State.finish_of_ready (h.wait_of_idle hi), hi]
  rfl

/-! ## Clocks left under prompt services (R160, R172) -/

/-- A position in range other than `IDLE` is one step further from `IDLE` than the next. -/
theorem Seq.stepsLeft_after {p : Params} (hp : p.wellFormed = true) {q : Seq} (hr : q.inRange p)
    (hq : q ≠ .idle) : q.stepsLeft p = (Seq.after p q).stepsLeft p + 1 := by
  have hT := Params.trailer_ge hp
  cases q with
  | idle => exact absurd rfl hq
  | cfg => simp only [Seq.after, Seq.clearStart]; split <;> simp only [Seq.stepsLeft] <;> omega
  | clr i =>
    have hi : i < p.pixels := hr
    simp only [Seq.after]; split <;> simp only [Seq.stepsLeft] <;> omega
  | hdr k =>
    have hk : k < Config.headerLen := hr
    simp only [Seq.after]; split_ifs <;> simp only [Seq.stepsLeft, Channel.bytesLeft] <;> omega
  | pay i j =>
    have hi : i < p.pixels := hr
    cases j with
    | green | red => simp only [Seq.after, Seq.stepsLeft, Channel.bytesLeft]; omega
    | blue => simp only [Seq.after]; split <;> simp only [Seq.stepsLeft, Channel.bytesLeft] <;> omega
  | trl k =>
    have hk : k < p.trailerLen := hr
    simp only [Seq.after]; split <;> simp only [Seq.stepsLeft] <;> omega
  | settle => rfl

/-- How many of the steps left take one clock: `CFG` and each `CLR`. -/
def Seq.quickLeft (p : Params) : Seq → Nat
  | .cfg => 1 + p.pixels
  | .clr i => p.pixels - i
  | .idle | .hdr _ | .pay _ _ | .trl _ | .settle => 0

theorem Seq.quickLeft_le (p : Params) (q : Seq) : q.quickLeft p ≤ q.stepsLeft p := by
  cases q <;> simp only [Seq.quickLeft, Seq.stepsLeft] <;> omega

/-- No step of a render cycle leads to a step that takes one clock. -/
theorem Seq.quickLeft_after_handshake {p : Params} {q : Seq} (hq : q.isHandshake = true) :
    (Seq.after p q).quickLeft p = 0 := by
  cases q with
  | idle | cfg | clr i => simp [Seq.isHandshake] at hq
  | hdr k => simp only [Seq.after]; split_ifs <;> rfl
  | pay i j =>
    cases j with
    | green | red => rfl
    | blue => simp only [Seq.after]; split_ifs <;> rfl
  | trl k => simp only [Seq.after]; split_ifs <;> rfl
  | settle => rfl

theorem Seq.quickLeft_after {p : Params} {q : Seq} (hr : q.inRange p) (hq : q ≠ .idle)
    (hh : q.isHandshake = false) : q.quickLeft p = (Seq.after p q).quickLeft p + 1 := by
  cases q with
  | idle => exact absurd rfl hq
  | cfg => simp only [Seq.after, Seq.clearStart]; split <;> simp only [Seq.quickLeft] <;> omega
  | clr i =>
    have hi : i < p.pixels := hr
    simp only [Seq.after]; split <;> simp only [Seq.quickLeft] <;> omega
  | hdr k | pay i j | trl k | settle => simp [Seq.isHandshake] at hh

/-- The clocks from the issue half of a position to `IDLE` under prompt services: two for each step, but one for
`CFG` and each `CLR`. -/
def Seq.clocksLeft (p : Params) (q : Seq) : Nat := 2 * q.stepsLeft p - q.quickLeft p

/-- The clocks from a state to `IDLE`: a completion half that is due is one more. -/
def State.clocksLeft (s : State) : Nat := s.pending.clocksLeft s.params + if s.wait then 1 else 0

theorem Seq.clocksLeft_after {p : Params} (hp : p.wellFormed = true) {q : Seq} (hr : q.inRange p)
    (hq : q ≠ .idle) :
    q.clocksLeft p = (Seq.after p q).clocksLeft p + if q.isHandshake then 2 else 1 := by
  have hsteps := Seq.stepsLeft_after hp hr hq
  have hle := Seq.quickLeft_le p (Seq.after p q)
  simp only [Seq.clocksLeft]
  split
  · rename_i hh
    have hzero : q.quickLeft p = 0 := by cases q <;> simp_all [Seq.isHandshake, Seq.quickLeft]
    have hnext := Seq.quickLeft_after_handshake (p := p) hh
    omega
  · rename_i hh
    have hquick := Seq.quickLeft_after hr hq (by simpa using hh)
    omega

theorem State.clocksLeft_of_idle (h : s.SeqOk) (hi : s.seq = .idle) : s.clocksLeft = 0 := by
  have hw := h.wait_of_idle hi
  simp [State.clocksLeft, State.pending_of_ready hw, hw, hi, Seq.clocksLeft, Seq.stepsLeft]

theorem State.busy_of_clocksLeft (h : s.SeqOk) {k : Nat} (hk : k < s.clocksLeft) : s.busy = true := by
  by_contra hb
  rw [State.clocksLeft_of_idle h (by simpa using hb)] at hk
  exact absurd hk (Nat.not_lt_zero k)

/-- A prompt service has always answered. -/
theorem State.Prompt.serviceDone (h : s.Prompt) (hq : s.seq.isHandshake = true) : s.serviceDone = true := by
  obtain ⟨htx, hdly⟩ := h
  cases hs : s.seq <;> simp_all [State.serviceDone, Seq.isHandshake]

/-- A block that prompt services bring to `IDLE`: well formed, in range, out of reset. -/
structure State.Running (s : State) : Prop where
  params : s.params.wellFormed = true
  seq : s.SeqOk
  rst : s.rst = false
  prompt : s.Prompt

theorem State.tick_rst (hb : s.busy = true) : s.tick.rst = s.rst := by
  cases State.tick_cases hb <;> simp [*]

theorem State.tick_txDone (hb : s.busy = true) : s.tick.txDone = s.txDone := by
  cases State.tick_cases hb <;> simp [*]

theorem State.tick_dlyDone (hb : s.busy = true) : s.tick.dlyDone = s.dlyDone := by
  cases State.tick_cases hb <;> simp [*]

theorem State.Running.tick (h : s.Running) (hb : s.busy = true) : s.tick.Running where
  params := by rw [State.tick_params hb]; exact h.params
  seq := h.seq.tick h.params hb
  rst := by rw [State.tick_rst hb]; exact h.rst
  prompt := by
    rw [State.Prompt, State.tick_txDone hb, State.tick_dlyDone hb]
    exact h.prompt

/-- With prompt services every clock is one less. -/
theorem State.clocksLeft_tick (h : s.Running) (hb : s.busy = true) : s.clocksLeft = s.tick.clocksLeft + 1 := by
  have hafter := Seq.clocksLeft_after h.params h.seq.counters (by simpa using hb)
  rw [State.clocksLeft, State.clocksLeft, State.tick_params hb]
  cases State.tick_control hb with
  | stays hw hd => simp [h.prompt.serviceDone (h.seq.waiting hw)] at hd
  | completes hw _ hseq hwait =>
    rw [State.pending_of_wait hw, State.pending_of_ready hwait, hseq, hw, hwait]
    rfl
  | passes hw hq hseq hwait =>
    rw [State.pending_of_ready hw, State.pending_of_ready hwait, hseq, hw, hwait, hafter, hq]
    rfl
  | issues hw hq hseq hwait =>
    rw [State.pending_of_ready hw, State.pending_of_wait hwait, hseq, State.tick_params hb, hw, hwait, hafter, hq]
    rfl

theorem Seq.clearStart_ne_idle (p : Params) : Seq.clearStart p ≠ .idle := by
  unfold Seq.clearStart
  split <;> nofun

/-- The clock that ends an operation issues nothing. -/
theorem State.tick_atRest (h : s.SeqOk) (hp : s.params.wellFormed = true) (hb : s.busy = true)
    (hi : s.tick.seq = .idle) : s.tick.atRest = s.tick := by
  have hq : s.seq ≠ .idle := by simpa using hb
  have hw := (h.tick hp hb).wait_of_idle hi
  have hstrobe : s.tick.strobe = none := by
    cases State.tick_cases hb with
    | waits _ _ ht | completes _ _ ht | clears _ _ _ ht => simp [ht]
    | configures _ _ ht => exact absurd (by rwa [ht] at hi) (Seq.clearStart_ne_idle s.params)
    | sendsZero _ _ ht | sendsPixel _ _ _ _ ht | settles _ _ ht => simp [ht] at hw
  exact State.eq_of_fields rfl rfl rfl hi.symm hw.symm rfl rfl rfl hstrobe.symm (State.tick_rspValid hb).symm rfl
    rfl rfl rfl rfl

/-- One clock of a busy block out of reset is a clock of its sequencer. -/
theorem run_busy (hr : s.rst = false) (hb : s.busy = true) (n : Nat) :
    Host.Core.run core (n + 1) s = Host.Core.run core n s.tick :=
  run_succ core n (step_of_busy hr hb)

/-- Until its last clock the block is busy. -/
theorem State.Running.run_busy_until (h : s.Running) {k : Nat} (hk : k < s.clocksLeft) :
    ∃ v, Host.Core.run core k s = .next v ∧ v.busy = true := by
  have hb := State.busy_of_clocksLeft h.seq hk
  induction k generalizing s with
  | zero => exact ⟨s, rfl, hb⟩
  | succ k ih =>
    rw [State.clocksLeft_tick h hb] at hk
    have hk := Nat.lt_of_succ_lt_succ hk
    rw [run_busy h.rst hb]
    exact ih (h.tick hb) hk (State.busy_of_clocksLeft (h.tick hb).seq hk)

/-- After its last clock the block is where the operation leads to. -/
theorem State.Running.run_finish (h : s.Running) (hb : s.busy = true) :
    Host.Core.run core s.clocksLeft s = .next s.finish := by
  induction hn : s.clocksLeft generalizing s with
  | zero =>
    rw [State.clocksLeft_tick h hb] at hn
    exact absurd hn (Nat.succ_ne_zero _)
  | succ n ih =>
    have hleft : s.tick.clocksLeft = n := by
      rw [State.clocksLeft_tick h hb] at hn
      exact Nat.succ.inj hn
    rw [run_busy h.rst hb, ← State.tick_finish h.seq hb]
    by_cases hb' : s.tick.busy = true
    · exact ih (h.tick hb) hb' hleft
    · have hi : s.tick.seq = .idle := by simpa using hb'
      obtain rfl : 0 = n := by rw [← hleft, State.clocksLeft_of_idle (h.tick hb).seq hi]
      rw [State.finish_of_idle (h.tick hb).seq hi, State.tick_atRest h.seq h.params hb hi]
      rfl

/-! ## INIT, RENDER and CLEAR from acceptance to the end (R131 to R133, R161, R173) -/

/-- Where a command puts the sequencer. -/
def driverEntry (p : Params) : Instr → Seq
  | .init => .cfg
  | .render => .hdr 0
  | .clear => Seq.clearStart p
  | .count | .compose _ _ _ | .setrgb _ _ _ _ | .setpacked _ _ => .idle

/-- The commands that start the sequencer. -/
def IsDriver (i : Instr) : Prop := i = .init ∨ i = .render ∨ i = .clear

theorem exec_driver {i : Instr} (h : IsDriver i) (hi : s.seq = .idle) (hx : exec i s = .next t) :
    t = s.goto (driverEntry s.params i) := by
  rcases h with rfl | rfl | rfl
  · rw [exec, execInit_of_idle hi] at hx
    cases hx
    rfl
  · exact ((execRender_next hi).mp hx).2.symm
  · exact ((execClear_next hi).mp hx).2.symm

theorem driverEntry_inRange {p : Params} (hp : p.wellFormed = true) (i : Instr) :
    (driverEntry p i).inRange p := by
  cases i with
  | clear => exact Seq.inRange_clearStart hp
  | render => exact (by decide : 0 < Config.headerLen)
  | init | count | compose | setrgb | setpacked => exact True.intro

theorem driverEntry_ne_idle {i : Instr} (h : IsDriver i) (p : Params) : driverEntry p i ≠ .idle := by
  rcases h with rfl | rfl | rfl
  · nofun
  · nofun
  · exact Seq.clearStart_ne_idle p

/-- The rest of an operation from its entry is the whole operation. -/
theorem State.finishFrom_driverEntry (s : State) (i : Instr) :
    s.finishFrom (driverEntry s.params i) = s.bigStep i := by
  cases i with
  | clear => exact s.finishFrom_clearStart
  | init | render | count | compose | setrgb | setpacked => rfl

theorem clocksLeft_driverEntry (p : Params) (i : Instr) : (driverEntry p i).clocksLeft p = opClocks p i := by
  cases i with
  | init => simp only [driverEntry, Seq.clocksLeft, Seq.stepsLeft, Seq.quickLeft, opClocks, renderClocks]; omega
  | clear =>
    simp only [driverEntry, Seq.clearStart, Seq.clocksLeft, opClocks, renderClocks]
    split <;> simp only [Seq.stepsLeft, Seq.quickLeft] <;> omega
  | render | count | compose | setrgb | setpacked => rfl

/-- A block between two commands that has just accepted one. -/
theorem State.Resting.goto_driverEntry_seqOk (h : s.Resting) (i : Instr) :
    (s.goto (driverEntry s.params i)).SeqOk :=
  State.seqOk_of_ready (driverEntry_inRange h.params i) h.wait

theorem State.Resting.atRest (h : s.Resting) : s.atRest = s.endPulses :=
  State.eq_of_fields rfl rfl rfl h.seq.symm h.wait.symm rfl rfl rfl rfl rfl rfl rfl rfl rfl rfl

theorem State.goto_pending (hw : s.wait = false) (q : Seq) : (s.goto q).pending = q := State.pending_of_ready hw

theorem State.finish_driverEntry (hw : s.wait = false) (i : Instr) :
    (s.goto (driverEntry s.params i)).finish = s.atRest.bigStep i := by
  rw [State.finish, State.goto_pending hw]
  exact s.atRest.finishFrom_driverEntry i

/-- Under prompt services an accepted INIT, RENDER or CLEAR keeps the block busy for its `opClocks` clocks and then
has had the effect of its one-transition rule. -/
theorem run_driver {i : Instr} (hrest : s.Resting) (hprompt : s.Prompt) (hd : IsDriver i)
    (hx : exec i s = .next t) :
    (∀ k < opClocks s.params i, ∃ v, Host.Core.run core k t = .next v ∧ v.busy = true) ∧
      Host.Core.run core (opClocks s.params i) t = .next (s.endPulses.bigStep i) := by
  rw [exec_driver hd hrest.seq hx]
  have hrun : (s.goto (driverEntry s.params i)).Running :=
    ⟨hrest.params, hrest.goto_driverEntry_seqOk i, hrest.rst, hprompt⟩
  have hclocks : (s.goto (driverEntry s.params i)).clocksLeft = opClocks s.params i := by
    rw [State.clocksLeft, State.goto_pending hrest.wait, State.goto_wait, hrest.wait]
    exact clocksLeft_driverEntry s.params i
  have hend := hrun.run_finish (by simpa using driverEntry_ne_idle hd s.params)
  rw [hclocks, State.finish_driverEntry hrest.wait, hrest.atRest] at hend
  exact ⟨fun k hk => hrun.run_busy_until (by rwa [hclocks]), hend⟩

/-! ## Any services (R173, R228) -/

/-- What an operation's effect depends on and changes: everything but the sequencer's position, the pulses and the
inputs. -/
def State.content (s : State) : State :=
  { s.atRest with rst := false, txDone := true, dlyDone := true, cmds := [] }

theorem State.content_storePixel (s : State) (i : Nat) (w : Word) :
    (s.storePixel i w).content = s.content.storePixel i w := by
  by_cases hi : i < s.params.pixels
  · rw [s.storePixel_of_lt hi, s.content.storePixel_of_lt hi]
    rfl
  · rw [s.storePixel_of_ge (Nat.le_of_not_lt hi), s.content.storePixel_of_ge (Nat.le_of_not_lt hi)]

theorem State.content_clearFrom (s : State) (count i : Nat) :
    (s.clearFrom count i).content = s.content.clearFrom count i := by
  induction count generalizing s i with
  | zero => rfl
  | succ count ih => rw [State.clearFrom, ih, State.content_storePixel]; rfl

theorem State.content_bigRender (s : State) : s.bigRender.content = s.content.bigRender := rfl

theorem State.content_bigClear (s : State) : s.bigClear.content = s.content.bigClear := by
  rw [State.bigClear, State.content_bigRender, State.content_clearFrom]
  rfl

theorem State.content_finishFrom (s : State) (q : Seq) :
    (s.finishFrom q).content = s.content.finishFrom q := by
  cases q with
  | cfg => exact State.content_bigClear _
  | clr i => exact congrArg State.bigRender (s.content_clearFrom _ i)
  | idle | hdr k | pay i j | trl k | settle => rfl

theorem State.content_bigStep (s : State) (i : Instr) : (s.bigStep i).content = s.content.bigStep i := by
  rw [← s.finishFrom_driverEntry, State.content_finishFrom]
  exact s.content.finishFrom_driverEntry i

theorem State.fields_of_content (h : s.content = t.content) :
    s.observed = t.observed ∧ s.configured = t.configured ∧ s.rsp = t.rsp ∧ s.responses = t.responses ∧
      s.draws = t.draws ∧ s.params = t.params := by
  simp_all [State.content, State.atRest, State.endPulses, State.observed]

/-- The environment's inputs do not change what an operation leads to. -/
theorem State.content_finish_withInputs (s : State) (e : Inputs) :
    (s.withInputs e).finish.content = s.finish.content := by
  rw [State.finish, State.finish, State.content_finishFrom, State.content_finishFrom]
  rfl

theorem clock_of_busy {e : Inputs} (he : e.rst = false) (hb : s.busy = true) :
    clock e s = .next (s.withInputs e).tick :=
  step_of_busy he hb

theorem runClocks_cons {e : Inputs} {es : List Inputs} (h : clock e s = .next t) :
    runClocks (e :: es) s = runClocks es t := by
  simp only [runClocks, h]

/-- Whatever the services do, as long as the block was busy until then it is on the way to the same end. -/
theorem runClocks_finish {u : State} {es : List Inputs} (hp : s.params.wellFormed = true) (hq : s.SeqOk)
    (hr : ∀ e ∈ es, e.rst = false)
    (hbusy : ∀ m < es.length, ∃ v, runClocks (es.take m) s = .next v ∧ v.busy = true)
    (hrun : runClocks es s = .next u) : u.SeqOk ∧ u.finish.content = s.finish.content := by
  induction es generalizing s with
  | nil => cases hrun; exact ⟨hq, rfl⟩
  | cons e es ih =>
    obtain ⟨he, hr⟩ := List.forall_mem_cons.mp hr
    have hb : s.busy = true := by
      obtain ⟨v, hv, hb⟩ := hbusy 0 (Nat.zero_lt_succ _)
      cases hv
      exact hb
    have hclock := clock_of_busy he hb
    have hqe : (s.withInputs e).SeqOk := hq.of_fields rfl rfl rfl
    have hbe : (s.withInputs e).busy = true := hb
    rw [runClocks_cons hclock] at hrun
    obtain ⟨hu, hend⟩ := ih (by rw [State.tick_params hbe]; exact hp) (hqe.tick hp hbe) hr
      (fun m hm => by
        rw [← runClocks_cons hclock]
        exact hbusy (m + 1) (Nat.succ_lt_succ hm)) hrun
    exact ⟨hu, by rw [hend, State.tick_finish hqe hbe, State.content_finish_withInputs]⟩

/-! ## What the one-transition rules change (R131 to R133) -/

/-- The write loop of CLEAR changes `PIX` alone. -/
theorem State.clearFrom_frame (s : State) (count i : Nat) :
    s.clearFrom count i = { s with pix := (s.clearFrom count i).pix } := by
  induction count generalizing s i with
  | zero => rfl
  | succ count ih =>
    rw [State.clearFrom, ih, s.storePixel_frame]

/-- INIT, RENDER and CLEAR change `PIX`, the trace, `CONFIGURED` and the count of free values alone. -/
theorem State.bigStep_frame (s : State) (i : Instr) :
    s.bigStep i =
      { s with
        pix := (s.bigStep i).pix, out := (s.bigStep i).out, configured := (s.bigStep i).configured,
        draws := (s.bigStep i).draws } := by
  cases i with
  | init => simp only [State.bigStep, State.bigInit, State.bigClear, State.bigRender]; rw [State.clearFrom_frame]
  | clear => simp only [State.bigStep, State.bigClear, State.bigRender]; rw [State.clearFrom_frame]
  | render | count | compose | setrgb | setpacked => rfl

theorem State.bigStep_params (s : State) (i : Instr) : (s.bigStep i).params = s.params := by
  rw [State.bigStep_frame]

theorem State.bigStep_rsp (s : State) (i : Instr) : (s.bigStep i).rsp = s.rsp := by
  rw [State.bigStep_frame]

theorem State.bigStep_responses (s : State) (i : Instr) : (s.bigStep i).responses = s.responses := by
  rw [State.bigStep_frame]

/-- The write loop of CLEAR stores the zero colour at the indices it runs over. -/
theorem State.read_clearFrom (s : State) (count : Nat) {i : Nat} (h : i + count ≤ s.params.pixels) (k : Nat) :
    (s.clearFrom count i).pix.read k = if i ≤ k ∧ k < i + count then some zeroColour else s.pix.read k := by
  induction count generalizing s i with
  | zero => rw [if_neg (by omega)]; rfl
  | succ count ih =>
    rw [State.clearFrom, ih _ (by rw [State.storePixel_params]; omega), s.read_storePixel (by omega)]
    by_cases hk : k = i
    · rw [if_neg (by omega), if_pos hk, if_pos (by omega)]
    · have hrange : (i + 1 ≤ k ∧ k < i + 1 + count) ↔ (i ≤ k ∧ k < i + (count + 1)) := by omega
      simp only [hrange, if_neg hk]

theorem State.holds_clearFrom (s : State) :
    (s.clearFrom s.params.pixels 0).holds (List.replicate s.params.pixels zeroColour) := by
  refine ⟨by rw [State.clearFrom_frame]; exact List.length_replicate, fun k hk => ?_⟩
  rw [List.length_replicate] at hk
  rw [s.read_clearFrom _ (by omega), if_pos (by omega), List.getElem_replicate]

theorem emitBytes_append (a b : List Byte) : emitBytes (a ++ b) = emitBytes a ++ emitBytes b := List.map_append

theorem emitBytes_zeros (k : Nat) : emitBytes (zeros k) = List.replicate k (.tx 0) := List.map_replicate

theorem emitBytes_frame (p : Params) (ws : List Word) :
    emitBytes (frame p ws) = List.replicate 4 (.tx 0) ++ ws.flatMap (fun w => emitBytes (bytesOf w)) ++
      List.replicate p.trailerLen (.tx 0) := by
  rw [frame, emitBytes_append, emitBytes_append, emitBytes_zeros, emitBytes_zeros, Config.headerLen]
  simp [emitBytes, List.map_flatMap]

theorem zeroColour_eq : zeroColour = 0x00808080 := by decide

theorem emitBytes_zeroColours (n : Nat) :
    (List.replicate n zeroColour).flatMap (fun w => emitBytes (bytesOf w)) = List.replicate (3 * n) (.tx 0x80) := by
  have hbytes : emitBytes (bytesOf zeroColour) = List.replicate 3 (.tx 0x80) := by decide
  rw [List.flatMap_replicate, hbytes, List.flatten_replicate_replicate, Nat.mul_comm]

/-- CLEAR as one transition, in full. -/
theorem State.bigClear_effect (s : State) :
    s.bigClear.out = s.out ++
      (List.replicate 4 (Event.tx 0) ++ List.replicate (3 * s.params.pixels) (Event.tx 0x80) ++
        List.replicate s.params.trailerLen (Event.tx 0)) ++ [.delay s.params.settleMs] ∧
    (∀ i < s.params.pixels, s.bigClear.pix.read i = some 0x00808080) ∧
    (∀ i, s.params.pixels ≤ i → s.bigClear.pix.read i = s.pix.read i) ∧
    s.bigClear = { s with pix := s.bigClear.pix, out := s.bigClear.out } := by
  have hpix : s.bigClear.pix = (s.clearFrom s.params.pixels 0).pix := rfl
  have heq := State.bigRender_of_holds s.holds_clearFrom
  rw [s.clearFrom_frame, emitBytes_frame, emitBytes_zeroColours] at heq
  refine ⟨?_, fun i hi => ?_, fun i hi => ?_, ?_⟩
  · rw [State.bigClear, s.clearFrom_frame, heq]
    rfl
  · rw [hpix, s.read_clearFrom _ (by omega), if_pos (by omega), zeroColour_eq]
  · rw [hpix, s.read_clearFrom _ (by omega), if_neg (by omega)]
  · rw [State.bigClear, s.clearFrom_frame, heq]

/-! ## Two words in a row (R134) -/

/-- An accepted RENDER word, run to the end under prompt services. -/
theorem run_render_word {ws : List Word} {w : CmdWord} {rest : List CmdWord} (hrest : s.Resting)
    (hprompt : s.Prompt) (hc : s.configured = true) (hold : s.holds ws) (hcmds : s.cmds = w :: rest)
    (hd : decode w = .ok .render) :
    Host.Core.run core (1 + opClocks s.params .render) s = .next
      { s.accept with out := s.out ++ (emitBytes (frame s.params ws) ++ [.delay s.params.settleMs]) } := by
  have hx := execRender_of_idle (s := s.accept) hrest.seq hc
  have hstep : step s = .next (s.accept.goto (.hdr 0)) := (step_of_accept hrest.rst hrest.seq hcmds hd).trans hx
  have haccept : s.accept.Resting := ⟨hrest.params, hrest.rst, hrest.seq, hrest.wait⟩
  obtain ⟨-, hend⟩ := run_driver haccept hprompt (.inr (.inl rfl)) hx
  rw [Nat.add_comm, ← List.append_assoc]
  exact (run_succ core _ hstep).trans
    (hend.trans (congrArg _ (State.bigRender_of_holds (s := s.accept.endPulses) hold)))

/-! ## The payload of any buffer (R140) -/

theorem Memory.payload_length (m : Memory) (count i d : Nat) : (m.payload count i d).1.length = 3 * count := by
  induction count generalizing i d with
  | zero => rfl
  | succ count ih =>
    have htriplet : (m.triplet i d).1.length = 3 := rfl
    rw [Memory.payload, List.length_append, htriplet, ih]
    omega

/-- A written word's stored bytes stand in the payload at its place, whatever the other pixels send. -/
theorem Memory.payload_slice {m : Memory} {count i k : Nat} {w : Word} (hk : k < count)
    (h : m.read (i + k) = some w) (d : Nat) : ((m.payload count i d).1.drop (3 * k)).take 3 = bytesOf w := by
  induction count generalizing i k d with
  | zero => exact absurd hk (Nat.not_lt_zero k)
  | succ count ih =>
    cases k with
    | zero => rw [Memory.payload, Memory.triplet_of_read (i := i) h]; rfl
    | succ k => exact ih (Nat.lt_of_succ_lt_succ hk) (by rwa [Nat.add_right_comm]) _

/-! ## Free values (R140) -/

theorem exec_draws {i : Instr} (h : exec i s = .next t) : t.draws = s.draws := by
  cases exec_cases h <;> simp [*]

/-- At a payload step the pixel has been written. -/
theorem State.Inv.written_of_pay (h : s.Inv) {i : Nat} {j : Channel} (hq : s.seq = .pay i j) :
    ∃ w, s.pix.read i = some w := by
  have hi : i < s.params.pixels := by simpa [hq, Seq.inRange] using h.seq.counters
  have hc := h.life.configuredPast (by simp [hq, Seq.afterConfigure])
  exact Option.isSome_iff_exists.mp (h.life.writtenBelow hc i (by simpa [hq, Seq.written] using hi))

theorem State.Inv.tick_draws (h : s.Inv) (hb : s.busy = true) : s.tick.draws = s.draws := by
  cases State.tick_cases hb with
  | sendsPixel _ i j hq ht =>
    obtain ⟨w, hw⟩ := h.written_of_pay hq
    simp [ht, Memory.byteAt_of_read hw]
  | _ => simp [*]

/-! ## The obligations of the family -/

/-- Settles O21: INIT is the `Cfg` event and then CLEAR, and its run ends in its one-transition rule. -/
theorem initConfiguresClearsAndRenders : Obligations.InitConfiguresClearsAndRenders := by
  refine ⟨fun _ h => decode_eq_ok.mpr (.init h), fun _ _ _ _ _ _ hs ho => (step_cfg_event hs ho).1,
    fun s hrest hprompt => ?_⟩
  have hx : exec .init s = .next (s.goto .cfg) := execInit_of_idle hrest.seq
  obtain ⟨hbusy, hend⟩ := run_driver hrest hprompt (.inl rfl) hx
  exact ⟨_, _, hx, hbusy, _, hend, State.bigClear_effect _⟩

/-- Settles O22: the run ends in RENDER's one-transition rule, which appends the frame of the words. -/
theorem renderSendsTheFrameOfTheBuffer : Obligations.RenderSendsTheFrameOfTheBuffer := by
  refine ⟨fun _ h => decode_eq_ok.mpr (.render h), fun s ws hrest hprompt hc hold => ?_⟩
  have hx : exec .render s = .next (s.goto (.hdr 0)) := execRender_of_idle hrest.seq hc
  obtain ⟨hbusy, hend⟩ := run_driver hrest hprompt (.inr (.inl rfl)) hx
  refine ⟨_, _, hx, hbusy, ?_⟩
  rw [hend, State.bigStep, State.bigRender_of_holds (s := s.endPulses) hold, emitBytes_frame]
  rfl

/-- Settles O23: the run ends in CLEAR's one-transition rule. -/
theorem clearZeroesEveryPixelAndRenders : Obligations.ClearZeroesEveryPixelAndRenders := by
  refine ⟨fun _ h => decode_eq_ok.mpr (.clear h), fun s hrest hprompt hc => ?_⟩
  have hx : exec .clear s = .next (s.goto (Seq.clearStart s.params)) := execClear_of_idle hrest.seq hc
  obtain ⟨hbusy, hend⟩ := run_driver hrest hprompt (.inr (.inr rfl)) hx
  exact ⟨_, _, hx, hbusy, _, hend, State.bigClear_effect s.endPulses⟩

/-- Settles O25: every clock of the sequencer leads to the same end, and the entry leads to the one-transition
rule's. -/
theorem sequencerAgreesWithTheBigStep : Obligations.SequencerAgreesWithTheBigStep :=
  fun _ _ _ hrest hprompt hd hx => (run_driver hrest hprompt hd hx).2

/-- Settles O26: neither waiting nor the environment's inputs change what the operation leads to. -/
theorem bigStepHoldsUnderAnyServiceDelay : Obligations.BigStepHoldsUnderAnyServiceDelay := by
  intro s t u i es hrest hd hx hr hbusy hrun hi
  rw [exec_driver hd hrest.seq hx] at hbusy hrun
  obtain ⟨hu, hend⟩ := runClocks_finish (s := s.goto (driverEntry s.params i)) hrest.params
    (hrest.goto_driverEntry_seqOk i) hr hbusy hrun
  have hcontent : u.content = (s.bigStep i).content :=
    calc u.content = u.finish.content := by rw [State.finish_of_idle hu hi]; rfl
      _ = (s.atRest.bigStep i).content := by rw [hend, State.finish_driverEntry hrest.wait]
      _ = (s.bigStep i).content := by rw [State.content_bigStep, State.content_bigStep]; rfl
  obtain ⟨hobserved, hconfigured, hrsp, hresponses, hdraws, hparams⟩ := State.fields_of_content hcontent
  exact ⟨hobserved, hconfigured, hrsp.trans (s.bigStep_rsp i), hresponses.trans (s.bigStep_responses i), hdraws,
    hparams.trans (s.bigStep_params i), hu.wait_of_idle hi⟩

/-- Settles O27: after the first RENDER the block is at rest again and still holds the words. -/
theorem twoRendersSendTheSameFrameTwice : Obligations.TwoRendersSendTheSameFrameTwice := by
  intro s ws w w' hrest hprompt hc hold hcmds hd hd'
  have hfirst := run_render_word hrest hprompt hc hold hcmds hd
  have hsecond := run_render_word
    (s := { s.accept with out := s.out ++ (emitBytes (frame s.params ws) ++ [.delay s.params.settleMs]) })
    (w := w') (rest := []) ⟨hrest.params, hrest.rst, hrest.seq, hrest.wait⟩ hprompt hc hold
    (congrArg List.tail hcmds) hd'
  rw [Nat.two_mul, run_add _ _ hfirst]
  exact ⟨_, hsecond, rfl, rfl, rfl, rfl, rfl, by simp [State.ended, hrest.seq, hcmds]⟩

/-- Settles O28: the payload has three bytes for each pixel, a written word's in its place. -/
theorem undefinedWordsKeepTheFrameShape : Obligations.UndefinedWordsKeepTheFrameShape := fun s =>
  ⟨(s.pix.payload s.params.pixels 0 s.draws).1, Memory.payload_length _ _ _ _, rfl, rfl,
    fun i hi _ hw => Memory.payload_slice hi (by rwa [Nat.zero_add]) _⟩

/-- Settles O44: under the invariant a payload step sends a written word, and nothing else out of reset draws a free
value. -/
theorem undefinedWordIsNeverRendered : Obligations.UndefinedWordIsNeverRendered := by
  intro s t h hr hs
  refine ⟨?_, fun i j hq => h.written_of_pay hq⟩
  cases step_cases hs with
  | reset hr' _ => simp [hr] at hr'
  | runs _ hb ht => rw [ht, h.tick_draws hb]
  | rests _ _ _ ht => simp [ht]
  | accepts _ _ _ _ _ _ _ hx => exact (exec_draws hx).trans s.accept_draws

/-- Settles O24: RENDER and CLEAR alone ask for `CONFIGURED`. -/
theorem renderAndClearNeedConfigured : Obligations.RenderAndClearNeedConfigured := by
  intro s hb hc
  have hi := s.busy_eq_false.mp hb
  have hrefused := State.whenConfigured_of_not hc
  refine ⟨?_, ?_, fun i hrender hclear => ?_⟩
  · rw [exec, execRender, State.whenIdle_of_idle hi, hrefused]
  · rw [exec, execClear, State.whenIdle_of_idle hi, hrefused]
  · cases i with
    | init => exact ⟨_, execInit_of_idle hi⟩
    | count => exact ⟨_, execCount_of_idle hi⟩
    | compose r g b => exact ⟨_, execCompose_of_idle hi r g b⟩
    | setrgb idx r g b => exact ⟨_, execSetrgb_of_idle hi idx r g b⟩
    | setpacked idx c => exact ⟨_, execSetpacked_of_idle hi idx c⟩
    | render => exact absurd rfl hrender
    | clear => exact absurd rfl hclear

end Sys2Proof.Machine
end

section
/-! The family `42_frame_sequencer.md`: the halves of each step, where a step can lead, how `BUSY` begins and ends, the
wait for a service that does not answer, and the independence of the path from the pixels. -/

namespace Sys2Proof.Machine

variable {s s' t : State}

/-! ## The halves of a step (R160, R162 to R167) -/

/-- With nothing outstanding, a clock of the running sequencer is the action of its step. -/
theorem step_of_ready (hr : s.rst = false) (hq : s.seq ≠ .idle) (hw : s.wait = false) :
    step s = .next s.endPulses.issue := by
  rw [step_of_busy hr (s.busy_eq_true.mpr hq), State.tick_of_ready hw]

/-- The issue half of a header or trailer byte. -/
theorem step_of_zero_byte (hr : s.rst = false) (hq : (∃ k, s.seq = .hdr k) ∨ ∃ k, s.seq = .trl k)
    (hw : s.wait = false) : step s = .next (s.endPulses.handOver (.tx 0)) := by
  rcases hq with ⟨k, hq⟩ | ⟨k, hq⟩ <;>
    rw [step_of_ready hr (by simp [hq]) hw, State.issue, State.endPulses_seq, hq]

/-- A step with two halves is a step of the running sequencer. -/
theorem State.busy_of_handshake (h : s.seq.isHandshake = true) : s.busy = true :=
  s.busy_eq_true.mpr fun hi => by simp [hi, Seq.isHandshake] at h

/-- The level that ends an outstanding call: the delay's at `SETTLE`, the byte's anywhere else. -/
theorem State.serviceDone_of_handshake (h : s.seq.isHandshake = true) :
    s.serviceDone = if s.seq = .settle then s.dlyDone else s.txDone := by
  cases hq : s.seq with
  | idle | cfg | clr i => simp [hq, Seq.isHandshake] at h
  | hdr k | pay i j | trl k | settle => simp [State.serviceDone, hq]

/-- A call that has completed takes the sequencer to the next position and changes nothing else but the pulses. -/
theorem step_of_done (hr : s.rst = false) (hh : s.seq.isHandshake = true) (hw : s.wait = true)
    (hd : (if s.seq = .settle then s.dlyDone else s.txDone) = true) :
    step s = .next { s.endPulses with wait := false, seq := Seq.after s.params s.seq } := by
  rw [step_of_busy hr (State.busy_of_handshake hh),
    State.tick_completes hw ((State.serviceDone_of_handshake hh).trans hd)]

/-- The completion half of a byte at position `q`. -/
theorem step_of_byte_done {q : Seq} (hr : s.rst = false) (hq : s.seq = q) (hh : q.isHandshake = true)
    (hne : q ≠ .settle) (hw : s.wait = true) (hd : s.txDone = true) :
    step s = .next { s.endPulses with wait := false, seq := Seq.after s.params q } := by
  subst hq
  exact step_of_done hr hh hw (by rwa [if_neg hne])

/-! ## Where a step leads (R162 to R168) -/

/-- `SETTLE` alone leads back to `IDLE`. -/
theorem Seq.eq_settle_of_after {p : Params} {q : Seq} (hq : q ≠ .idle) (h : Seq.after p q = .idle) :
    q = .settle := by
  cases q with
  | idle => exact absurd rfl hq
  | cfg => exact absurd h (Seq.clearStart_ne_idle p)
  | clr i => simp only [Seq.after] at h; split at h <;> cases h
  | hdr k => simp only [Seq.after] at h; split_ifs at h
  | pay i j =>
    cases j with
    | green | red => cases h
    | blue => simp only [Seq.after] at h; split at h <;> cases h
  | trl k => simp only [Seq.after] at h; split at h <;> cases h
  | settle => rfl

/-- A clock of the running sequencer that ends in `IDLE` is the completion half of `SETTLE`. -/
theorem State.tick_ends_at_settle (hb : s.busy = true) (hi : s.tick.seq = .idle) :
    s.seq = .settle ∧ s.wait = true ∧ s.serviceDone = true := by
  have hq : s.seq ≠ .idle := s.busy_eq_true.mp hb
  cases State.tick_control hb with
  | stays _ _ hseq _ => exact absurd (hseq.symm.trans hi) hq
  | completes hw hd hseq _ => exact ⟨Seq.eq_settle_of_after hq (hseq.symm.trans hi), hw, hd⟩
  | passes _ hh hseq _ =>
    have hsettle := Seq.eq_settle_of_after hq (hseq.symm.trans hi)
    simp [hsettle, Seq.isHandshake] at hh
  | issues _ _ hseq _ => exact absurd (hseq.symm.trans hi) hq

/-- A command that takes an idle block out of `IDLE` starts the sequencer; the others return a word or store one. -/
theorem isDriver_of_exec {i : Instr} (hx : exec i s = .next t) (hi : s.seq = .idle) (hq : t.seq ≠ .idle) :
    IsDriver i := by
  have hreturn {v : Word} (hret : Returns s.params i v) : t.seq = .idle :=
    (congrArg State.seq (exec_return_frame hret hx)).trans hi
  have hstore {idx : Index} {w : Word} (hst : StoresAt i idx w) : t.seq = .idle :=
    (congrArg State.seq (exec_store_frame hst hx).1).trans hi
  cases i with
  | init => exact .inl rfl
  | render => exact .inr (.inl rfl)
  | clear => exact .inr (.inr rfl)
  | count => exact absurd (hreturn .count) hq
  | compose r g b => exact absurd (hreturn (.compose r g b)) hq
  | setrgb idx r g b => exact absurd (hstore (.setrgb idx r g b)) hq
  | setpacked idx c => exact absurd (hstore (.setpacked idx c)) hq

/-! ## A service that does not signal (R169, R170, R182) -/

/-- The inputs of a clock without reset in which the service awaited at `q` is silent. -/
def Inputs.SilentAt (q : Seq) (e : Inputs) : Prop :=
  e.rst = false ∧ if q = .settle then e.dlyDone = false else e.txDone = false

/-- Such a clock ends the pulses and does nothing else. -/
theorem clock_of_silent {e : Inputs} (hw : s.wait = true) (hh : s.seq.isHandshake = true)
    (he : e.SilentAt s.seq) : clock e s = .next (s.withInputs e).endPulses := by
  obtain ⟨hr, hlevel⟩ := he
  have hd : (s.withInputs e).serviceDone = false := by
    rw [State.serviceDone_of_handshake (s := s.withInputs e) hh, State.withInputs_seq]
    split at hlevel
    · rwa [if_pos ‹_›]
    · rwa [if_neg ‹_›]
  rw [clock_of_busy hr (State.busy_of_handshake hh), State.tick_waits (s := s.withInputs e) hw hd]

/-- Over any number of such clocks only the inputs, the words on the port and the pulses change; `u` holds the inputs
and the pulses of the end. -/
theorem runClocks_silent {es : List Inputs} (hw : s.wait = true) (hh : s.seq.isHandshake = true)
    (hes : ∀ e ∈ es, e.SilentAt s.seq) :
    ∃ u : State, runClocks es s = .next
      { s with
        rst := u.rst, txDone := u.txDone, dlyDone := u.dlyDone, strobe := u.strobe, rspValid := u.rspValid,
        cmds := s.cmds ++ es.flatMap (·.offered) } := by
  induction es generalizing s with
  | nil => exact ⟨s, by simp [runClocks]⟩
  | cons e es ih =>
    obtain ⟨he, hes⟩ := List.forall_mem_cons.mp hes
    obtain ⟨u, hu⟩ := ih (s := (s.withInputs e).endPulses) hw hh hes
    refine ⟨u, ?_⟩
    rw [runClocks_cons (clock_of_silent hw hh he), hu]
    simp [State.withInputs, State.endPulses]

/-! ## The path and the pixels (R172) -/

/-- The sequencer moves on when a call has completed and at the steps without a second half. -/
theorem State.tick_seq (hb : s.busy = true) :
    s.tick.seq =
      if (if s.wait then s.serviceDone else !s.seq.isHandshake) then Seq.after s.params s.seq else s.seq := by
  cases State.tick_control hb <;> simp [*]

/-- A clock leaves a call outstanding when it goes on waiting and at the issue half of a step with two halves. -/
theorem State.tick_wait (hb : s.busy = true) :
    s.tick.wait = if s.wait then !s.serviceDone else s.seq.isHandshake := by
  cases State.tick_control hb <;> simp [*]

/-- The issue halves, but that of a `CLR` step, append one event. -/
theorem State.tick_out_length (hb : s.busy = true) :
    s.tick.out.length = s.out.length +
      if s.wait = false ∧ (s.seq = .cfg ∨ s.seq.isHandshake = true) then 1 else 0 := by
  cases State.tick_cases hb with
  | waits hw _ ht | completes hw _ ht => simp [ht, hw]
  | configures hw hq ht => simp [ht, hw, hq]
  | clears hw i hq ht => simp [ht, hw, hq, Seq.isHandshake]
  | sendsZero hw hq ht => rcases hq with ⟨k, hq⟩ | ⟨k, hq⟩ <;> simp [ht, hw, hq, Seq.isHandshake]
  | sendsPixel hw i j hq ht => simp [ht, hw, hq, Seq.isHandshake]
  | settles hw hq ht => simp [ht, hw, hq, Seq.isHandshake]

theorem State.SameControl.busy (h : s.SameControl s') : s'.busy = s.busy := by
  rw [State.busy, State.busy, h.seq]

theorem State.SameControl.serviceDone (h : s.SameControl s') : s'.serviceDone = s.serviceDone := by
  rw [State.serviceDone, State.serviceDone, h.seq, h.txDone, h.dlyDone]

theorem State.SameControl.endPulses (h : s.SameControl s') : s.endPulses.SameControl s'.endPulses :=
  ⟨h.params, h.seq, h.wait, h.configured, h.rst, h.txDone, h.dlyDone, h.cmds⟩

theorem State.SameControl.accept (h : s.SameControl s') : s.accept.SameControl s'.accept :=
  ⟨h.params, h.seq, h.wait, h.configured, h.rst, h.txDone, h.dlyDone, congrArg List.tail h.cmds⟩

theorem State.SameControl.resetEvent (h : s.SameControl s') : s.resetEvent.SameControl s'.resetEvent :=
  ⟨h.params, rfl, rfl, rfl, h.rst, h.txDone, h.dlyDone, h.cmds⟩

theorem State.SameControl.goto (h : s.SameControl s') (q : Seq) : (s.goto q).SameControl (s'.goto q) :=
  ⟨h.params, rfl, h.wait, h.configured, h.rst, h.txDone, h.dlyDone, h.cmds⟩

theorem State.SameControl.respond (h : s.SameControl s') (v : Word) :
    (s.respond v).SameControl (s'.respond v) :=
  ⟨h.params, h.seq, h.wait, h.configured, h.rst, h.txDone, h.dlyDone, h.cmds⟩

theorem State.SameControl.storePixel (h : s.SameControl s') (i : Nat) (w : Word) :
    (s.storePixel i w).SameControl (s'.storePixel i w) := by
  rw [s.storePixel_frame, s'.storePixel_frame]
  exact ⟨h.params, h.seq, h.wait, h.configured, h.rst, h.txDone, h.dlyDone, h.cmds⟩

/-- Every field that decides the path is after a clock a function of those fields before it. -/
theorem State.SameControl.tick (h : s.SameControl s') (hb : s.busy = true) : s.tick.SameControl s'.tick := by
  have hb' : s'.busy = true := h.busy.trans hb
  constructor
  case params => rw [State.tick_params hb, State.tick_params hb', h.params]
  case seq => rw [State.tick_seq hb, State.tick_seq hb', h.params, h.seq, h.wait, h.serviceDone]
  case wait => rw [State.tick_wait hb, State.tick_wait hb', h.seq, h.wait, h.serviceDone]
  case configured =>
    rw [Bool.eq_iff_iff, State.tick_configured hb, State.tick_configured hb', h.seq, h.wait, h.configured]
  case rst => rw [State.tick_rst hb, State.tick_rst hb', h.rst]
  case txDone => rw [State.tick_txDone hb, State.tick_txDone hb', h.txDone]
  case dlyDone => rw [State.tick_dlyDone hb, State.tick_dlyDone hb', h.dlyDone]
  case cmds => rw [State.tick_cmds hb, State.tick_cmds hb', h.cmds]

/-- A command has a next state in both of two idle blocks or in neither, and leaves them alike. -/
theorem exec_sameControl {i : Instr} (h : s.SameControl s') (hi : s.seq = .idle) (hx : exec i s = .next t) :
    ∃ t', exec i s' = .next t' ∧ t.SameControl t' := by
  have hi' : s'.seq = .idle := h.seq.trans hi
  cases i with
  | init =>
    rw [exec, execInit_of_idle hi] at hx
    cases hx
    exact ⟨_, execInit_of_idle hi', h.goto _⟩
  | count =>
    rw [exec, execCount_of_idle hi, ← h.params] at hx
    cases hx
    exact ⟨_, execCount_of_idle hi', h.respond _⟩
  | compose r g b =>
    rw [exec, execCompose_of_idle hi] at hx
    cases hx
    exact ⟨_, execCompose_of_idle hi' r g b, h.respond _⟩
  | setrgb idx r g b =>
    rw [exec, execSetrgb_of_idle hi] at hx
    cases hx
    exact ⟨_, execSetrgb_of_idle hi' idx r g b, h.storePixel _ _⟩
  | setpacked idx c =>
    rw [exec, execSetpacked_of_idle hi] at hx
    cases hx
    exact ⟨_, execSetpacked_of_idle hi' idx c, h.storePixel _ _⟩
  | render =>
    obtain ⟨hc, rfl⟩ := (execRender_next hi).mp hx
    exact ⟨_, execRender_of_idle hi' (h.configured.trans hc), h.goto _⟩
  | clear =>
    obtain ⟨hc, rfl⟩ := (execClear_next hi).mp hx
    rw [← h.params]
    exact ⟨_, execClear_of_idle hi' (h.configured.trans hc), h.goto _⟩

/-! ## The obligations of the family -/

/-- Settles O35: `BUSY` rises by acceptance alone, and a clock of the sequencer ends in `IDLE` only by the completion
half of `SETTLE`. -/
theorem busyStartsByACommandAndEndsAtSettle : Obligations.BusyStartsByACommandAndEndsAtSettle := by
  intro s t hs
  cases step_cases hs with
  | reset hr ht => exact ⟨fun _ htb => by simp [ht] at htb, fun _ _ => .inl hr⟩
  | runs _ hb ht =>
    subst ht
    refine ⟨fun hidle => by simp [hb] at hidle, fun _ htb => .inr ?_⟩
    obtain ⟨hq, hw, hd⟩ := State.tick_ends_at_settle hb (s.tick.busy_eq_false.mp htb)
    have hdly : s.dlyDone = true := by simpa [State.serviceDone, hq] using hd
    rw [State.tick_completes hw hd, hq]
    exact ⟨rfl, hw, hdly, rfl, rfl, rfl, rfl, rfl, rfl⟩
  | rests _ hi _ ht => exact ⟨fun _ htb => by simp [ht, hi] at htb, fun hb => by simp [hi] at hb⟩
  | accepts hr hi w rest i hc hd hx =>
    refine ⟨fun _ htb => ⟨hr, w, rest, i, hc, hd, ?_⟩, fun hb => by simp [hi] at hb⟩
    exact (isDriver_of_exec (s := s.accept) hx hi (t.busy_eq_true.mp htb)).imp_right Or.symm

/-- Settles O36: a busy block out of reset runs its sequencer, which touches neither the port nor `RSP`. -/
theorem noCommandIsAcceptedWhileBusy : Obligations.NoCommandIsAcceptedWhileBusy := fun _ hb =>
  ⟨congrArg not hb, exec_of_busy hb, fun hr =>
    ⟨_, step_of_busy hr hb, State.tick_cmds hb, State.tick_rsp hb, State.tick_responses hb,
      State.tick_rspValid hb⟩⟩

/-- Settles O38: silent clocks leave the state as it was but for the inputs and the pulses, and reset wins in the
next. -/
theorem silentServiceLeavesTheBlockStuck : Obligations.SilentServiceLeavesTheBlockStuck := by
  intro es s hw hh hes
  obtain ⟨u, hrun⟩ := runClocks_silent hw hh hes
  exact ⟨_, hrun, rfl, hw, State.busy_of_handshake hh, rfl, rfl, rfl, rfl, rfl, rfl, fun _ he =>
    ⟨_, step_of_rst he, rfl, rfl⟩⟩

/-- Settles O39: a clock leaves `SEQ` or moves it to the next position, which is one step nearer. -/
theorem eachSequencerStepComesOneNearer : Obligations.EachSequencerStepComesOneNearer := by
  refine ⟨fun s t hp hok hr hb hs => ?_, fun p => ⟨rfl, ?_, rfl, rfl⟩⟩
  · rw [step_of_busy hr hb] at hs
    cases hs
    have hafter := Seq.stepsLeft_after hp hok.counters (s.busy_eq_true.mp hb)
    cases State.tick_control hb with
    | stays _ _ hseq _ => exact .inl hseq
    | completes _ _ hseq _ => exact .inr (by rw [hseq, hafter])
    | passes _ _ hseq _ => exact .inr (by rw [hseq, hafter])
    | issues _ _ hseq _ => exact .inl hseq
  · unfold Seq.clearStart
    split
    · rfl
    · simp only [Seq.stepsLeft, Config.headerLen]
      omega

/-- Settles O41: of all that a clock does, only the bytes sent and the words stored depend on what `SameControl`
does not fix. -/
theorem controlDoesNotDependOnPixels : Obligations.ControlDoesNotDependOnPixels := by
  intro s s' t h hs
  cases step_cases hs with
  | reset hr ht =>
    subst ht
    exact ⟨_, step_of_rst (h.rst.trans hr), h.resetEvent, by simp⟩
  | runs hr hb ht =>
    subst ht
    have hb' : s'.busy = true := h.busy.trans hb
    refine ⟨_, step_of_busy (h.rst.trans hr) hb', h.tick hb, ?_⟩
    rw [State.tick_out_length hb, State.tick_out_length hb', h.seq, h.wait, Nat.add_sub_cancel_left,
      Nat.add_sub_cancel_left]
  | rests hr hi hc ht =>
    subst ht
    exact ⟨_, step_of_resting (h.rst.trans hr) (h.seq.trans hi) (h.cmds.trans hc), h.endPulses, by simp⟩
  | accepts hr hi w rest i hc hd hx =>
    obtain ⟨t', hx', ht⟩ := exec_sameControl h.accept hi hx
    refine ⟨t', (step_of_accept (h.rst.trans hr) (h.seq.trans hi) (h.cmds.trans hc) hd).trans hx', ht, ?_⟩
    simp [exec_out hx, exec_out hx']

/-- Settles O16: acceptance puts an idle block at the entry of the operation; a busy block stays as it is. -/
theorem driverOpsAcceptanceFrame : Obligations.DriverOpsAcceptanceFrame := by
  intro s t i hd hx
  by_cases hb : s.busy = true
  · rw [exec_of_busy hb] at hx
    cases hx
    rfl
  · rw [exec_driver hd (by simpa using hb) hx]
    rfl

/-- Settles O29: `CFG` has no second half; its action and its next position are one clock. -/
theorem cfgStepConfiguresTheTransport : Obligations.CfgStepConfiguresTheTransport := by
  intro s hr hq hw
  have hissue : s.endPulses.issue = s.endPulses.configure.goto (Seq.clearStart s.params) := by
    simp [State.issue, hq, Seq.after]
  rw [step_of_ready hr (by simp [hq]) hw, hissue]
  rfl

/-- Settles O30: the step is a store of the zero colour below `N`, which changes that one entry. -/
theorem clrStepWritesTheZeroColour : Obligations.ClrStepWritesTheZeroColour := by
  intro s i hr hq hw hi
  have hissue : s.endPulses.issue =
      (s.endPulses.storePixel i zeroColour).goto (Seq.after s.params (.clr i)) := by
    simp [State.issue, hq]
  have hread := s.endPulses.read_storePixel hi zeroColour
  refine ⟨_, (step_of_ready hr (by simp [hq]) hw).trans (congrArg _ hissue), ?_, ?_, fun k hk => ?_⟩
  · rw [s.endPulses.storePixel_frame]
    rfl
  · rw [State.goto_pix, hread, if_pos rfl, zeroColour_eq]
  · rw [State.goto_pix, hread, if_neg hk, State.endPulses_pix]

/-- Settles O31: the issue half hands over a zero byte, the completion half moves on. -/
theorem headerStepSendsAZeroByte : Obligations.HeaderStepSendsAZeroByte := fun _ k hr hq =>
  ⟨step_of_zero_byte hr (.inl ⟨k, hq⟩), step_of_byte_done hr hq rfl nofun⟩

/-- Settles O32: the issue half hands over what `Memory.byteAt` answers, the stored byte of a written word. -/
theorem payloadStepSendsOneStoredByte : Obligations.PayloadStepSendsOneStoredByte := by
  intro s i j hr hq
  refine ⟨fun hw => ⟨(s.pix.byteAt i j s.draws).1, (s.pix.byteAt i j s.draws).2, fun w hread => ?_, ?_⟩,
    fun hw hd => ?_⟩
  · rw [Memory.byteAt_of_read hread]
    exact ⟨rfl, by cases j <;> rfl⟩
  · have hissue : s.endPulses.issue = s.endPulses.sendPixelByte i j := by simp [State.issue, hq]
    rw [step_of_ready hr (by simp [hq]) hw, hissue]
    rfl
  · rw [step_of_byte_done hr hq rfl nofun hw hd]
    cases j <;> rfl

/-- Settles O33: the issue half hands over a zero byte, the completion half moves on. -/
theorem trailerStepSendsAZeroByte : Obligations.TrailerStepSendsAZeroByte := fun _ k hr hq =>
  ⟨step_of_zero_byte hr (.inr ⟨k, hq⟩), step_of_byte_done hr hq rfl nofun⟩

/-- Settles O34: the issue half starts the delay, and its end leads to `IDLE`. -/
theorem settleStepWaitsOutTheDelay : Obligations.SettleStepWaitsOutTheDelay := by
  intro s hr hq
  refine ⟨fun hw => ?_, fun hw hd => ?_⟩
  · have hissue : s.endPulses.issue = s.endPulses.handOver (delayEvent s.params) := by simp [State.issue, hq]
    rw [step_of_ready hr (by simp [hq]) hw, hissue]
    rfl
  · rw [step_of_done hr (by rw [hq]; rfl) hw (by rwa [if_pos hq]), hq]
    rfl

end Sys2Proof.Machine
end

section
/-! The family `70_reset_and_hazards.md`: reset in any state, and the end of every operation under prompt services. -/

namespace Sys2Proof.Machine

variable {s : State}

/-! ## How soon prompt services bring the block to `IDLE` (R172, R228) -/

/-- Each step left takes two clocks at most; a call that is outstanding has had its first clock already. -/
theorem State.clocksLeft_le (hp : s.params.wellFormed = true) (h : s.SeqOk) :
    s.clocksLeft ≤ 2 * s.seq.stepsLeft s.params := by
  rw [State.clocksLeft]
  cases hw : s.wait with
  | false =>
    rw [State.pending_of_ready hw]
    exact Nat.sub_le _ _
  | true =>
    have hq : s.seq ≠ .idle := s.busy_eq_true.mp (State.busy_of_handshake (h.waiting hw))
    rw [State.pending_of_wait hw, Seq.stepsLeft_after hp h.counters hq, Seq.clocksLeft]
    simp only [if_true]
    omega

theorem State.Running.idle_of_clocksLeft_eq_zero (h : s.Running) (hz : s.clocksLeft = 0) : s.seq = .idle := by
  by_contra hq
  rw [State.clocksLeft_tick h (s.busy_eq_true.mpr hq)] at hz
  exact Nat.succ_ne_zero _ hz

theorem State.Running.endPulses (h : s.Running) : s.endPulses.Running :=
  ⟨h.params, h.seq.of_fields rfl rfl rfl, h.rst, h.prompt⟩

theorem State.ended_iff : s.ended = true ↔ s.seq = .idle ∧ s.cmds = [] := by simp [State.ended]

/-- Once the clocks that are left have passed, and ever after, a block that is offered no command is idle. -/
theorem State.Running.run_ended (h : s.Running) (hc : s.cmds = []) {n : Nat} (hn : s.clocksLeft ≤ n) :
    ∃ t, Host.Core.run core n s = .next t ∧ t.ended = true := by
  induction n generalizing s with
  | zero => exact ⟨s, rfl, State.ended_iff.mpr ⟨h.idle_of_clocksLeft_eq_zero (Nat.le_zero.mp hn), hc⟩⟩
  | succ n ih =>
    by_cases hb : s.busy = true
    · rw [run_busy h.rst hb]
      rw [State.clocksLeft_tick h hb] at hn
      exact ih (h.tick hb) ((State.tick_cmds hb).trans hc) (Nat.le_of_succ_le_succ hn)
    · have hi : s.seq = .idle := by simpa using hb
      rw [run_succ core n (step_of_resting h.rst hi hc)]
      have hzero : s.endPulses.clocksLeft = 0 := State.clocksLeft_of_idle h.endPulses.seq hi
      exact ih h.endPulses hc (hzero.trans_le n.zero_le)

/-! ## The obligations of the family -/

/-- Settles O40: the clocks left are at most twice the steps left, and each clock is one less. -/
theorem promptServicesBringTheBlockToIdle : Obligations.PromptServicesBringTheBlockToIdle :=
  fun _ hp hq hr hprompt hc => State.Running.run_ended ⟨hp, hq, hr, hprompt⟩ hc (State.clocksLeft_le hp hq)

/-- Settles O48: a step with `rst = 1` is the reset event, whatever the sequencer and the command port do. -/
theorem resetWinsInEveryState : Obligations.ResetWinsInEveryState := by
  intro s hr
  obtain ⟨hcfg, htx, hdly⟩ := State.outputs_of_silent s.resetEvent_strobe
  exact ⟨s.resetEvent, step_of_rst hr, fun _ => rfl, s.resetEvent_configured, s.resetEvent_seq, s.resetEvent_wait,
    s.resetEvent.busy_eq_false.mpr s.resetEvent_seq, hcfg, htx, hdly, s.resetEvent_rspValid, s.resetEvent_params,
    s.resetEvent_out, s.resetEvent_cmds⟩

end Sys2Proof.Machine
end
